-- ==== Sys2Proof/Word.lean ====
section
/-! DEFINITION. Word.lean: the widths the spec gives its values (00_scope.md R6, R8, R9). Every value is unsigned. -/

namespace Sys2Proof

/-- A memory byte, a general register or a timer (R6: V0..VF, DT and ST are 8 bits each). -/
abbrev Byte := BitVec 8

/-- An instruction word, PC, I or a stack entry (R6: 16 bits). -/
abbrev Word := BitVec 16

/-- The address immediate nnn, op[11:0] (30_encoding.md R80). -/
abbrev Addr12 := BitVec 12

/-- A register index: a 4-bit field, so every index names one of V0..VF (10_state.md R20). -/
abbrev Reg := Fin 16

/-- A key of the keypad, 0x0 to 0xF (10_state.md R38). -/
abbrev Key := Fin 16

/-- A sprite's row count n, 0 to 15 (41_display.md R152). -/
abbrev Count := Fin 16

end Sys2Proof
end

