-- ==== Sys2Proof/Config.lean ====
section
/-! DEFINITION. Config.lean: what the spec leaves open (00_scope.md R7), as constants without a body. A claim is true
whatever they are. -/

namespace Sys2Proof

/-- Whether FONT_BASE is 0x000; otherwise it is 0x050 (20_memory.md R63, D8: OPEN; log 3). -/
opaque Config.fontBaseIsZero : Bool

/-- FONT_GLYPHS: the 80 font bytes, five rows a glyph (70_reset_and_hazards.md R302, D9; log 4). The spec's default table is
`canonicalGlyphs` in Machine/Ops.lean. -/
opaque Config.fontGlyphs : Vector Byte 80

/-- LOADSTORE_ADVANCES_I: whether FX55 and FX65 add x + 1 to I (43_index_memory.md R214, D7: OPEN; log 6). -/
opaque Config.loadStoreAdvancesI : Bool

/-- The physical place of each key; KEY_ORDER lists the keys by rising place, keys of one place by their number
(44_timer_key.md R236, D12: OPEN; log 5). Every permutation of the keys is the order of some such function. -/
opaque Config.keyRank : Key → Nat

/-- The free byte of the n-th execution of CXKK: any of 0..255, under no law (40_alu.md R136, D14; log 2). -/
opaque Config.freeByte : Nat → Byte

end Sys2Proof
end

