-- ==== Sys2Proof/Syntax.lean ====
section
/-! DEFINITION. Syntax.lean: the 35 documented opcodes, one constructor for each row of spec/opcode_table.json, in the
table's order (30_encoding.md R83, R84, R94; the 35th, `sys`, R86). -/

namespace Sys2Proof

/-- One decoded instruction: its row and the fields its row names (R81, R82). -/
inductive Instr where
  /-- 00E0 `CLS` (R150) -/
  | cls
  /-- 00EE `RET` (R172) -/
  | ret
  /-- 1NNN `JP nnn` (R174) -/
  | jp (nnn : Addr12)
  /-- 2NNN `CALL nnn` (R176) -/
  | call (nnn : Addr12)
  /-- 3XKK `SE Vx, kk` (R182) -/
  | seImm (x : Reg) (kk : Byte)
  /-- 4XKK `SNE Vx, kk` (R184) -/
  | sneImm (x : Reg) (kk : Byte)
  /-- 5XY0 `SE Vx, Vy` (R186) -/
  | seReg (x y : Reg)
  /-- 6XKK `LD Vx, kk` (R125) -/
  | ldImm (x : Reg) (kk : Byte)
  /-- 7XKK `ADD Vx, kk` (R126) -/
  | addImm (x : Reg) (kk : Byte)
  /-- 8XY0 `LD Vx, Vy` (R127) -/
  | ldReg (x y : Reg)
  /-- 8XY1 `OR Vx, Vy` (R128) -/
  | orReg (x y : Reg)
  /-- 8XY2 `AND Vx, Vy` (R129) -/
  | andReg (x y : Reg)
  /-- 8XY3 `XOR Vx, Vy` (R130) -/
  | xorReg (x y : Reg)
  /-- 8XY4 `ADD Vx, Vy` (R131) -/
  | addReg (x y : Reg)
  /-- 8XY5 `SUB Vx, Vy` (R132) -/
  | sub (x y : Reg)
  /-- 8XY6 `SHR Vx {, Vy}`: y is a field of the encoding that execution ignores (R124, R133) -/
  | shr (x y : Reg)
  /-- 8XY7 `SUBN Vx, Vy` (R134) -/
  | subn (x y : Reg)
  /-- 8XYE `SHL Vx {, Vy}`: y is ignored (R124, R135) -/
  | shl (x y : Reg)
  /-- 9XY0 `SNE Vx, Vy` (R188) -/
  | sneReg (x y : Reg)
  /-- ANNN `LD I, nnn` (R200) -/
  | ldI (nnn : Addr12)
  /-- BNNN `JP V0, nnn` (R180) -/
  | jpV0 (nnn : Addr12)
  /-- CXKK `RND Vx, kk` (R136) -/
  | rnd (x : Reg) (kk : Byte)
  /-- DXYN `DRW Vx, Vy, n` (R152) -/
  | drw (x y : Reg) (n : Count)
  /-- EX9E `SKP Vx` (R240) -/
  | skp (x : Reg)
  /-- EXA1 `SKNP Vx` (R242) -/
  | sknp (x : Reg)
  /-- FX07 `LD Vx, DT` (R230) -/
  | ldvDt (x : Reg)
  /-- FX0A `LD Vx, K` (R235) -/
  | ldvKey (x : Reg)
  /-- FX15 `LD DT, Vx` (R232) -/
  | lddt (x : Reg)
  /-- FX18 `LD ST, Vx` (R233) -/
  | ldSt (x : Reg)
  /-- FX1E `ADD I, Vx` (R202) -/
  | addI (x : Reg)
  /-- FX29 `LD F, Vx` (R204) -/
  | ldF (x : Reg)
  /-- FX33 `LD B, Vx` (R208) -/
  | ldB (x : Reg)
  /-- FX55 `LD [I], Vx` (R210) -/
  | ldiMem (x : Reg)
  /-- FX65 `LD Vx, [I]` (R212) -/
  | ldvMem (x : Reg)
  /-- 0NNN `SYS nnn`, nnn neither 0x0E0 nor 0x0EE: documented, not registered, fatal when executed (R86, R171) -/
  | sys (nnn : Addr12)
  deriving DecidableEq, Repr

end Sys2Proof
end

