-- ==== Sys2Proof/Decode.lean ====
section
/-! DEFINITION. Decode.lean: the fields of a word (30_encoding.md R80, R81), the dispatch table (R84) searched in
registration order with first match winning (R85), the decoder, and after it the encoder. -/

namespace Sys2Proof

/-- x = op[11:8] (R81). -/
def fieldX (op : Word) : Reg := (op.extractLsb' 8 4).toFin
/-- y = op[7:4] (R81). -/
def fieldY (op : Word) : Reg := (op.extractLsb' 4 4).toFin
/-- n = op[3:0] (R81). -/
def fieldN (op : Word) : Count := (op.extractLsb' 0 4).toFin
/-- kk = op[7:0] (R81). -/
def fieldKk (op : Word) : Byte := op.extractLsb' 0 8
/-- nnn = op[11:0] (R81). -/
def fieldNnn (op : Word) : Addr12 := op.extractLsb' 0 12

/-- One entry (pattern, mask, handler) of the dispatch table (R84). -/
structure DispatchRow where
  pattern : Word
  mask : Word
  handler : Word → Instr

/-- An entry matches when (raw_instruction AND mask) == pattern (R85). -/
def rowMatches (op : Word) (row : DispatchRow) : Bool := op &&& row.mask == row.pattern

/-- Rows 1 to 9 of R84: classes 0x0 to 0x7. -/
def dispatchRowsLow : List DispatchRow :=
  [ ⟨0x00E0, 0xFFFF, fun _ => .cls⟩,
    ⟨0x00EE, 0xFFFF, fun _ => .ret⟩,
    ⟨0x1000, 0xF000, fun op => .jp (fieldNnn op)⟩,
    ⟨0x2000, 0xF000, fun op => .call (fieldNnn op)⟩,
    ⟨0x3000, 0xF000, fun op => .seImm (fieldX op) (fieldKk op)⟩,
    ⟨0x4000, 0xF000, fun op => .sneImm (fieldX op) (fieldKk op)⟩,
    ⟨0x5000, 0xF00F, fun op => .seReg (fieldX op) (fieldY op)⟩,
    ⟨0x6000, 0xF000, fun op => .ldImm (fieldX op) (fieldKk op)⟩,
    ⟨0x7000, 0xF000, fun op => .addImm (fieldX op) (fieldKk op)⟩ ]

/-- Rows 10 to 18 of R84: class 0x8. -/
def dispatchRowsAlu : List DispatchRow :=
  [ ⟨0x8000, 0xF00F, fun op => .ldReg (fieldX op) (fieldY op)⟩,
    ⟨0x8001, 0xF00F, fun op => .orReg (fieldX op) (fieldY op)⟩,
    ⟨0x8002, 0xF00F, fun op => .andReg (fieldX op) (fieldY op)⟩,
    ⟨0x8003, 0xF00F, fun op => .xorReg (fieldX op) (fieldY op)⟩,
    ⟨0x8004, 0xF00F, fun op => .addReg (fieldX op) (fieldY op)⟩,
    ⟨0x8005, 0xF00F, fun op => .sub (fieldX op) (fieldY op)⟩,
    ⟨0x8006, 0xF00F, fun op => .shr (fieldX op) (fieldY op)⟩,
    ⟨0x8007, 0xF00F, fun op => .subn (fieldX op) (fieldY op)⟩,
    ⟨0x800E, 0xF00F, fun op => .shl (fieldX op) (fieldY op)⟩ ]

/-- Rows 19 to 34 of R84: classes 0x9 to 0xF. -/
def dispatchRowsHigh : List DispatchRow :=
  [ ⟨0x9000, 0xF00F, fun op => .sneReg (fieldX op) (fieldY op)⟩,
    ⟨0xA000, 0xF000, fun op => .ldI (fieldNnn op)⟩,
    ⟨0xB000, 0xF000, fun op => .jpV0 (fieldNnn op)⟩,
    ⟨0xC000, 0xF000, fun op => .rnd (fieldX op) (fieldKk op)⟩,
    ⟨0xD000, 0xF000, fun op => .drw (fieldX op) (fieldY op) (fieldN op)⟩,
    ⟨0xE09E, 0xF0FF, fun op => .skp (fieldX op)⟩,
    ⟨0xE0A1, 0xF0FF, fun op => .sknp (fieldX op)⟩,
    ⟨0xF007, 0xF0FF, fun op => .ldvDt (fieldX op)⟩,
    ⟨0xF00A, 0xF0FF, fun op => .ldvKey (fieldX op)⟩,
    ⟨0xF015, 0xF0FF, fun op => .lddt (fieldX op)⟩,
    ⟨0xF018, 0xF0FF, fun op => .ldSt (fieldX op)⟩,
    ⟨0xF01E, 0xF0FF, fun op => .addI (fieldX op)⟩,
    ⟨0xF029, 0xF0FF, fun op => .ldF (fieldX op)⟩,
    ⟨0xF033, 0xF0FF, fun op => .ldB (fieldX op)⟩,
    ⟨0xF055, 0xF0FF, fun op => .ldiMem (fieldX op)⟩,
    ⟨0xF065, 0xF0FF, fun op => .ldvMem (fieldX op)⟩ ]

/-- The 34 registered entries in registration order (R84, R85). -/
def dispatchTable : List DispatchRow := dispatchRowsLow ++ dispatchRowsAlu ++ dispatchRowsHigh

/-- The matcher: the first matching entry's handler applied to the word, or none (R85, R87). -/
def dispatch (op : Word) : Option Instr := (dispatchTable.find? (rowMatches op)).map (fun row => row.handler op)

/-- What decoding a word gives: an instruction, or the rejection by name that carries the raw word (R87). -/
inductive Decoded where
  | instr (i : Instr)
  | unimplementedOpcode (op : Word)
  deriving DecidableEq, Repr

/-- The decoder, a total function of the word alone (R92). A word no entry matches is `sys` in class 0x0 (R86: documented,
not registered, fatal when executed) and is rejected in every other class (R88). -/
def decode (op : Word) : Decoded :=
  match dispatch op with
  | some i => .instr i
  | none => if op.extractLsb' 12 4 = 0 then .instr (.sys (fieldNnn op)) else .unimplementedOpcode op

/-- `hi ++ lo = (hi << 8) | lo` (00_scope.md R9): the byte at the lower address is the most significant (20_memory.md R53,
R57). -/
def wordOfBytes (hi lo : Byte) : Word := hi.setWidth 16 <<< 8 ||| lo.setWidth 16

/-- The more significant byte of a word, the one at the lower address (R57). -/
def highByte (w : Word) : Byte := w.extractLsb' 8 8

/-- The less significant byte of a word (R57). -/
def lowByte (w : Word) : Byte := w.extractLsb' 0 8

/-- Decoding the two bytes of an instruction as they lie in memory (R80, R93). -/
def decodeBytes (hi lo : Byte) : Decoded := decode (wordOfBytes hi lo)

/-- A class nibble and nnn: `cccc nnnn nnnn nnnn`. -/
def wordNnn (c : BitVec 4) (nnn : Addr12) : Word := c.setWidth 16 <<< 12 ||| nnn.setWidth 16

/-- A class nibble, x and an 8-bit low part (kk, or the fixed low byte of classes 0xE and 0xF): `cccc xxxx kkkk kkkk`. -/
def wordXKk (c : BitVec 4) (x : Reg) (kk : Byte) : Word :=
  c.setWidth 16 <<< 12 ||| (BitVec.ofFin (w := 4) x).setWidth 16 <<< 8 ||| kk.setWidth 16

/-- A class nibble, x, y and a low nibble: `cccc xxxx yyyy nnnn`. -/
def wordXYN (c : BitVec 4) (x y : Reg) (n : BitVec 4) : Word :=
  c.setWidth 16 <<< 12 ||| (BitVec.ofFin (w := 4) x).setWidth 16 <<< 8 ||| (BitVec.ofFin (w := 4) y).setWidth 16 <<< 4 |||
    n.setWidth 16

/-- The word of an instruction, row by row from the "encoding" column of R84 (`sys`: R171). -/
def encode (i : Instr) : Word :=
  match i with
  | .cls => 0x00E0
  | .ret => 0x00EE
  | .jp nnn => wordNnn 0x1 nnn
  | .call nnn => wordNnn 0x2 nnn
  | .seImm x kk => wordXKk 0x3 x kk
  | .sneImm x kk => wordXKk 0x4 x kk
  | .seReg x y => wordXYN 0x5 x y 0x0
  | .ldImm x kk => wordXKk 0x6 x kk
  | .addImm x kk => wordXKk 0x7 x kk
  | .ldReg x y => wordXYN 0x8 x y 0x0
  | .orReg x y => wordXYN 0x8 x y 0x1
  | .andReg x y => wordXYN 0x8 x y 0x2
  | .xorReg x y => wordXYN 0x8 x y 0x3
  | .addReg x y => wordXYN 0x8 x y 0x4
  | .sub x y => wordXYN 0x8 x y 0x5
  | .shr x y => wordXYN 0x8 x y 0x6
  | .subn x y => wordXYN 0x8 x y 0x7
  | .shl x y => wordXYN 0x8 x y 0xE
  | .sneReg x y => wordXYN 0x9 x y 0x0
  | .ldI nnn => wordNnn 0xA nnn
  | .jpV0 nnn => wordNnn 0xB nnn
  | .rnd x kk => wordXKk 0xC x kk
  | .drw x y n => wordXYN 0xD x y (BitVec.ofFin (w := 4) n)
  | .skp x => wordXKk 0xE x 0x9E
  | .sknp x => wordXKk 0xE x 0xA1
  | .ldvDt x => wordXKk 0xF x 0x07
  | .ldvKey x => wordXKk 0xF x 0x0A
  | .lddt x => wordXKk 0xF x 0x15
  | .ldSt x => wordXKk 0xF x 0x18
  | .addI x => wordXKk 0xF x 0x1E
  | .ldF x => wordXKk 0xF x 0x29
  | .ldB x => wordXKk 0xF x 0x33
  | .ldiMem x => wordXKk 0xF x 0x55
  | .ldvMem x => wordXKk 0xF x 0x65
  | .sys nnn => wordNnn 0x0 nnn

/-- The 16-bit word whose bits are the low `nbits` bits of `w`, every bit above them 0. -/
def tableWord (nbits w : Nat) : Word := BitVec.ofNat 16 (w % 2 ^ nbits)

/-- The instruction the decoder reads from the bytes of a table word, laid out high byte first (R57). -/
def decodeTableWord (nbits w : Nat) : Option Instr :=
  match decodeBytes (highByte (tableWord nbits w)) (lowByte (tableWord nbits w)) with
  | .instr i => some i
  | .unimplementedOpcode _ => none

end Sys2Proof
end

