-- ==== Sys2Proof/Machine/State.lean ====
section
/-! DEFINITION. Machine/State.lean: every piece of state 10_state.md gives the CORE (R42), as plain data; the reasons a step
can stop; and the state right after initialisation (70_reset_and_hazards.md R300). -/

namespace Sys2Proof.Machine

/-- The 32 rows of 64 pixels, `true` = on (10_state.md R37, 41_display.md R151). -/
abbrev Framebuffer := Vector (Vector Bool 64) 32

/-- The memory cells that differ from the initial contents: addresses strictly rising and below 4096
(20_memory.md R50; Memory.wf in Machine/Ops.lean; log 24). -/
abbrev Memory := List Host.Cell

/-- What a step returns beside the next state (30_encoding.md R91). -/
inductive Event where
  /-- "Absence of an event means normal sequential continuation." -/
  | none
  /-- Only DXYN, every time it executes. -/
  | draw
  /-- Only FX0A, when no key is down. -/
  | waitForKey
  deriving DecidableEq, Repr

/-- The machine (R42). `event` and `draws` are the model's own fields (logs 1 and 2). -/
structure State where
  /-- V0..VF; VF is also the flag register (R20, R21). -/
  v : Vector Byte 16
  /-- The program counter, stored as 16 bits and masked only at fetch (R25, R28). -/
  pc : Word
  /-- The index register, stored as 16 bits and masked only at an access (R32). -/
  i : Word
  /-- The delay timer (R33). -/
  dt : Byte
  /-- The sound timer (R34). -/
  st : Byte
  /-- The call stack: the last element is the top, at most 16 entries (R10, R35). -/
  stack : List Word
  /-- The one address space (R36, R50). -/
  mem : Memory
  /-- The framebuffer (R37). -/
  fb : Framebuffer
  /-- The keypad: `true` = pressed (R38). -/
  keys : Vector Bool 16
  /-- The run has ended in a fatal condition or a refusal (R43). -/
  halted : Bool
  /-- The event of the last step (R91; log 1). -/
  event : Event
  /-- How many bytes CXKK has drawn; names the next free byte (R136; log 2). -/
  draws : Nat
  deriving DecidableEq, Repr

/-- The fatal conditions (60_exceptions.md R260), and the stop of a machine that has already ended. -/
inductive Fault where
  /-- Raised by `step` on a word that matches no row, and by `sys`; carries the raw word (R87, R171). Safe. -/
  | unimplementedOpcode (op : Word)
  /-- Raised by `call` with 16 entries on the stack: the failing operation is the push; carries the word (R176). Safe. -/
  | stackOverflow (op : Word)
  /-- Raised by `ret` with an empty stack: the failing operation is the pop; carries the word (R172). Safe. -/
  | stackUnderflow (op : Word)
  /-- Raised by `step`, `tick` and `refresh` on a halted machine, which takes no further step (R43; logs 9 and 25). Safe. -/
  | halted
  deriving DecidableEq, Repr

/-- The model refusals (60_exceptions.md R265): cases the spec itself refuses to give a meaning. -/
inductive Refusal where
  /-- Answered by exec for an instruction that has no meaning yet; no arm does. Safe. -/
  | notModelled (mnemonic : String)
  /-- Answered by FX29 when V[x] > 0xF; carries the word (R204, R265; log 10). Safe. -/
  | fontDigitOutOfRange (op : Word)
  /-- Answered by EX9E and EXA1 when V[x] > 0xF; carries the word (R240, R242, R244, R265; log 11). Safe. -/
  | keyIndexOutOfRange (op : Word)
  deriving DecidableEq, Repr

/-- What a meaning answers. -/
abbrev Result := Host.Outcome State Fault Refusal

/-- The state after initialisation with an empty program image (R300): PC 0x200, every register 0, the stack empty, memory
at its initial contents (nothing listed), all pixels off, all keys released, not halted. DT and ST: D15, log 7. Stack,
display and keypad: D16, log 8. `event` and `draws`: logs 1 and 2. -/
def State.reset : State where
  v := Vector.replicate 16 0
  pc := 0x200
  i := 0
  dt := 0
  st := 0
  stack := []
  mem := []
  fb := Vector.replicate 32 (Vector.replicate 64 false)
  keys := Vector.replicate 16 false
  halted := false
  event := .none
  draws := 0

end Sys2Proof.Machine
end

