-- ==== Sys2Proof/Machine/Ops.lean ====
section
/-! DEFINITION. Machine/Ops.lean: the shared operations: the named updates of State, registers, memory and bus, program
counter, call stack, the ends of a step (fatal condition, refusal) and fetching the next instruction. -/

namespace Sys2Proof.Machine

/-! ## Named updates, one for each field -/

def State.setV (s : State) (v : Vector Byte 16) : State := { s with v := v }
def State.setPc (s : State) (a : Word) : State := { s with pc := a }
def State.setI (s : State) (a : Word) : State := { s with i := a }
def State.setDt (s : State) (b : Byte) : State := { s with dt := b }
def State.setSt (s : State) (b : Byte) : State := { s with st := b }
def State.setStack (s : State) (l : List Word) : State := { s with stack := l }
def State.setMem (s : State) (m : Memory) : State := { s with mem := m }
def State.setFb (s : State) (f : Framebuffer) : State := { s with fb := f }
def State.setKeys (s : State) (k : Vector Bool 16) : State := { s with keys := k }
def State.setHalted (s : State) (h : Bool) : State := { s with halted := h }
def State.setEvent (s : State) (e : Event) : State := { s with event := e }
def State.setDraws (s : State) (n : Nat) : State := { s with draws := n }

/-! ## General registers (10_state.md R20) -/

/-- `V[r]` (R10). -/
def State.reg (s : State) (r : Reg) : Byte := s.v[r]

/-- `V[r] <- b` (R10). -/
def State.setReg (s : State) (r : Reg) (b : Byte) : State := s.setV (s.v.set r b)

/-- V0..Vx inclusive, in order (43_index_memory.md R210). -/
def State.regsUpTo (s : State) (x : Reg) : List Byte := s.v.toList.take (x.val + 1)

/-- V0..Vx inclusive take `f 0 .. f x`; the other registers keep their values (R212). -/
def State.setRegsUpTo (s : State) (x : Reg) (f : Reg → Byte) : State :=
  s.setV (Vector.ofFn (fun r => if r ≤ x then f r else s.v[r]))

/-! ## The font and the initial contents of memory -/

/-- FONT_BASE (20_memory.md R63; log 3). -/
def fontBase : Word := if Config.fontBaseIsZero then 0x000 else 0x050

/-- FONT_GLYPHS: row r of glyph d is element 5d + r (70_reset_and_hazards.md R302; log 4). -/
def fontGlyphs : List Byte := Config.fontGlyphs.toList

/-- The default of FONT_GLYPHS: the canonical table as R302 lists it (D9). Only claims that name it rest on it. -/
def canonicalGlyphs : List Byte :=
  [0xF0, 0x90, 0x90, 0x90, 0xF0] ++ [0x20, 0x60, 0x20, 0x20, 0x70] ++
  [0xF0, 0x10, 0xF0, 0x80, 0xF0] ++ [0xF0, 0x10, 0xF0, 0x10, 0xF0] ++
  [0x90, 0x90, 0xF0, 0x10, 0x10] ++ [0xF0, 0x80, 0xF0, 0x10, 0xF0] ++
  [0xF0, 0x80, 0xF0, 0x90, 0xF0] ++ [0xF0, 0x10, 0x20, 0x40, 0x40] ++
  [0xF0, 0x90, 0xF0, 0x90, 0xF0] ++ [0xF0, 0x90, 0xF0, 0x10, 0xF0] ++
  [0xF0, 0x90, 0xF0, 0x90, 0x90] ++ [0xE0, 0x90, 0xE0, 0x90, 0xE0] ++
  [0xF0, 0x80, 0x80, 0x80, 0xF0] ++ [0xE0, 0x90, 0x90, 0x90, 0xE0] ++
  [0xF0, 0x80, 0xF0, 0x80, 0xF0] ++ [0xF0, 0x80, 0xF0, 0x80, 0x80]

/-- The initial byte at `a` for a font `glyphs` placed at `base`: zero, then the font (R36, R300, R302). -/
def initialByteOf (base : Nat) (glyphs : List Byte) (a : Nat) : Byte :=
  if a < base then 0 else glyphs.getD (a - base) 0

/-- What an address that memory does not list reads as: the contents after initialisation with an empty image (R300).
The font lies below 0x0A0 for either FONT_BASE (R303). -/
def initialByte (a : Nat) : Byte := if a < 0xA0 then initialByteOf fontBase.toNat fontGlyphs a else 0

/-- FX29: the address of the glyph of digit `d` in a font at `base` (43_index_memory.md R204). -/
def glyphAddress (base : Word) (d : Byte) : Word := base + 5 * d.setWidth 16

/-! ## Memory in canonical form (log 24) -/

/-- The byte of the cell with key `a`, or the initial byte. -/
def Memory.get (m : Memory) (a : Nat) : Byte :=
  match m with
  | [] => initialByte a
  | (k, b) :: rest => if k = a then b else Memory.get rest a

/-- The memory with `b` at key `a`, kept in canonical form: writing the initial byte removes the entry. -/
def Memory.put (m : Memory) (a : Nat) (b : Byte) : Memory :=
  match m with
  | [] => if b = initialByte a then [] else [(a, b)]
  | (k, c) :: rest =>
    if a < k then (if b = initialByte a then (k, c) :: rest else (a, b) :: (k, c) :: rest)
    else if a = k then (if b = initialByte a then rest else (a, b) :: rest)
    else (k, c) :: Memory.put rest a b

/-- The canonical form: keys strictly rising and below 4096, no cell equal to the initial byte of its address. -/
abbrev Memory.wf (m : Memory) : Prop :=
  m.Pairwise (fun c d => c.1 < d.1) ∧ ∀ c ∈ m, c.1 < 4096 ∧ c.2 ≠ initialByte c.1

/-! ## The bus (20_memory.md R51 to R56) -/

/-- Every address is reduced modulo 4096 before use (R51). -/
def busAddress (a : Nat) : Nat := a % 4096

/-- `MemRead(a, 1)` (R52). -/
def readByte (m : Memory) (a : Nat) : Byte := m.get (busAddress a)

/-- `MemRead(a, 2)`: big-endian, from a and a + 1, each masked (R53). -/
def readWord (m : Memory) (a : Nat) : Word := wordOfBytes (readByte m a) (readByte m (a + 1))

/-- `MemWrite(a, 1, b)` (R54). -/
def writeByte (m : Memory) (a : Nat) (b : Byte) : Memory := m.put (busAddress a) b

/-- One `write_byte` for each byte, in ascending offset order (R55). -/
def writeBytes (m : Memory) (a : Nat) (bs : List Byte) : Memory :=
  match bs with
  | [] => m
  | b :: rest => writeBytes (writeByte m a b) (a + 1) rest

/-- Byte k of an access through I: at I + k, an unbounded sum that the bus masks (R56). -/
def indexAddress (s : State) (k : Nat) : Nat := s.i.toNat + k

/-! ## The program counter (10_state.md R26; `+_16`: D1, log 13) -/

/-- `PC <- PC +_16 2`. -/
def State.advancePc (s : State) : State := s.setPc (s.pc + 2)

/-- `PC <- PC -_16 2`: FX0A with no key down (44_timer_key.md R235). -/
def State.rewindPc (s : State) : State := s.setPc (s.pc - 2)

/-- A further 2 when a skip's condition holds (42_control.md R181). -/
def State.skipIf (s : State) (c : Bool) : State := if c then s.advancePc else s

/-! ## The ends of a step -/

/-- `raise Fatal(kind, info)`: the only exception the CORE has. No state is saved and there is no handler to go to: the step
answers the condition and no successor state (60_exceptions.md R262, R263, R268). Nothing returns from it (R269). -/
def raiseFatal (f : Fault) : Result := .fault f

/-- `refuse Unsettled(reason)`: the spec's own outcome where the source gives no meaning (R265). -/
def refuseUnsettled (r : Refusal) : Result := .refused r

/-! ## The call stack (42_control.md R173) -/

/-- The stack's depth, 16 return addresses (00_scope.md R6). -/
def stackDepth : Nat := 16

/-- `push(S, a)`, then `k`; StackOverflow, pushing nothing, when 16 entries are already there (R173). -/
def pushThen (op : Word) (a : Word) (k : State → State) (s : State) : Result :=
  if s.stack.length < stackDepth then .next (k (s.setStack (s.stack ++ [a]))) else raiseFatal (.stackOverflow op)

/-- `pop(S)`, its value given to `k`; StackUnderflow when the stack is empty (R173). -/
def popThen (op : Word) (k : Word → State → State) (s : State) : Result :=
  match s.stack.getLast? with
  | some a => .next (k a (s.setStack s.stack.dropLast))
  | none => raiseFatal (.stackUnderflow op)

/-! ## Random -/

/-- The next free byte (40_alu.md R136; log 2). -/
def State.freeDraw (s : State) : Byte := Config.freeByte s.draws

/-- One draw has been taken. -/
def State.countDraw (s : State) : State := s.setDraws (s.draws + 1)

/-! ## Fetch (30_encoding.md R90) -/

/-- The word at PC, masked by the bus. -/
def fetchWord (s : State) : Word := readWord s.mem s.pc.toNat

/-- What stands before the handler: no event yet, and PC advanced by 2 (R90, R91). -/
def beginStep (s : State) : State := (s.setEvent .none).advancePc

/-- What a step does before it runs a handler: an instruction to run and the state to run it in, or a stop. -/
inductive Fetched where
  | run (i : Instr) (s : State)
  | stop (f : Fault)
  deriving DecidableEq, Repr

/-- Fetch, advance and dispatch (R90); a halted machine takes no step (R43), an unmatched word is fatal (R87). -/
def fetchDecode (s : State) : Fetched :=
  if s.halted then .stop .halted
  else
    match decode (fetchWord s) with
    | .instr i => .run i (beginStep s)
    | .unimplementedOpcode op => .stop (.unimplementedOpcode op)

/-- The state with `op` stored where the next step fetches, high byte first. -/
def placeWord (s : State) (op : Word) : State :=
  s.setMem (writeBytes s.mem s.pc.toNat [highByte op, lowByte op])

end Sys2Proof.Machine
end

