-- ==== Sys2Proof/Machine/Operands.lean ====
section
/-! DEFINITION. Machine/Operands.lean: every operand form: what the fields of a word become where they meet an operand
(30_encoding.md R81), and the reads of the keypad and the framebuffer. -/

namespace Sys2Proof.Machine

/-- `zext_16(nnn)` (R81). -/
def zextAddr (nnn : Addr12) : Word := nnn.setWidth 16

/-- `zext_16(b)` (00_scope.md R9). -/
def zextByte (b : Byte) : Word := b.setWidth 16

/-- The digit or key number a register holds, if it is at most 0xF (43_index_memory.md R204, 44_timer_key.md R244). -/
def hexDigit (b : Byte) : Option (Fin 16) := if h : b.toNat < 16 then some ⟨b.toNat, h⟩ else none

/-! ## The keypad (44_timer_key.md R236, R240) -/

/-- `is_pressed(k)`: `K[k]` (60_exceptions.md R276). -/
def State.pressed (s : State) (k : Key) : Bool := s.keys[k]

/-- The 16 keys by number. -/
def allKeys : List Key := [0, 1, 2, 3, 4, 5, 6, 7, 8, 9, 10, 11, 12, 13, 14, 15]

/-- Inserting a key before the first key of a list whose place is not lower. -/
def insertKey (rank : Key → Nat) (k : Key) (l : List Key) : List Key :=
  match l with
  | [] => [k]
  | h :: t => if rank k ≤ rank h then k :: h :: t else h :: insertKey rank k t

/-- The keys by rising place, keys of one place by number. -/
def keyOrderOf (rank : Key → Nat) : List Key := allKeys.foldr (insertKey rank) []

/-- KEY_ORDER (R236; log 5). Irreducible, so that no proof tries to sort by unknown places. -/
@[irreducible] def keyOrder : List Key := keyOrderOf Config.keyRank

/-- The first key of `order` that is pressed. -/
def firstPressed (order : List Key) (s : State) : Option Key := order.find? s.pressed

/-- `any_pressed(K)`: none when no key is pressed, else the pressed key that comes first in KEY_ORDER (R236). -/
def anyPressed (s : State) : Option Key := if allKeys.any s.pressed then firstPressed keyOrder s else none

/-- A key number as a register value. -/
def keyByte (k : Key) : Byte := BitVec.ofNat 8 k.val

/-! ## The framebuffer (41_display.md R151) -/

/-- `FB[r][c]`. -/
def Framebuffer.pixel (f : Framebuffer) (r : Fin 32) (c : Fin 64) : Bool := f[r][c]

/-- `FB[r][c] <- not FB[r][c]`. -/
def Framebuffer.toggle (f : Framebuffer) (r : Fin 32) (c : Fin 64) : Framebuffer := f.set r (f[r].set c (!f[r][c]))

/-- All pixels off (R150). -/
def Framebuffer.clear : Framebuffer := Vector.replicate 32 (Vector.replicate 64 false)

end Sys2Proof.Machine
end

