-- ==== Sys2Proof/Machine/Flags.lean ====
section
/-! DEFINITION. Machine/Flags.lean: the flag in VF (40_alu.md R121), always 0 or 1, each computed from the exact operands, and
the order of the result write and the flag write (R122). -/

namespace Sys2Proof.Machine

/-- A flag as VF's value: 1 or 0 (R121). -/
def flagByte (c : Bool) : Byte := if c then 1 else 0

/-- `add`: 1 iff `a + b > 0xFF` (R121). -/
def carryFlag (a b : Byte) : Bool := decide (a.toNat + b.toNat > 0xFF)

/-- `sub` and `subn`, `a - b`: 1 iff `a ≥ b`, NOT borrow (R121). -/
def notBorrowFlag (a b : Byte) : Bool := decide (a.toNat ≥ b.toNat)

/-- `shr`: bit 0 of the original value (R121). -/
def shrFlag (a : Byte) : Bool := a.getLsbD 0

/-- `shl`: bit 7 of the original value (R121). -/
def shlFlag (a : Byte) : Bool := a.getLsbD 7

/-- `V[15] <- flag`. -/
def State.setFlag (s : State) (c : Bool) : State := s.setReg 15 (flagByte c)

/-- The result into V[x], then the flag into VF: with x = 0xF the flag stays (R122, D3; log 15). -/
def State.setResultFlag (s : State) (x : Reg) (r : Byte) (c : Bool) : State := (s.setReg x r).setFlag c

end Sys2Proof.Machine
end

