-- ==== Sys2Proof/Machine/Alu.lean ====
section
/-! DEFINITION. Machine/Alu.lean: classes 6, 7, 8 and C (40_alu.md). Each meaning runs after the PC increment, reads its
sources first and then writes (00_scope.md R13; log 16). -/

namespace Sys2Proof.Machine

/-- 6XKK `V[x] <- kk` (R125; log 21). -/
def execLdImm (x : Reg) (kk : Byte) (s : State) : Result := .next (s.setReg x kk)

/-- 7XKK `V[x] <- V[x] +_8 kk`, no flag (R126, D17; logs 20 and 21). -/
def execAddImm (x : Reg) (kk : Byte) (s : State) : Result := .next (s.setReg x (s.reg x + kk))

/-- 8XY0 `V[x] <- V[y]` (R127; log 21). -/
def execLdReg (x y : Reg) (s : State) : Result := .next (s.setReg x (s.reg y))

/-- 8XY1 `V[x] <- V[x] | V[y]` (R128). -/
def execOrReg (x y : Reg) (s : State) : Result := .next (s.setReg x (s.reg x ||| s.reg y))

/-- 8XY2 `V[x] <- V[x] & V[y]` (R129). -/
def execAndReg (x y : Reg) (s : State) : Result := .next (s.setReg x (s.reg x &&& s.reg y))

/-- 8XY3 `V[x] <- V[x] ^ V[y]` (R130). -/
def execXorReg (x y : Reg) (s : State) : Result := .next (s.setReg x (s.reg x ^^^ s.reg y))

/-- 8XY4: sum, then carry into VF (R131). -/
def execAddReg (x y : Reg) (s : State) : Result :=
  .next (s.setResultFlag x (s.reg x + s.reg y) (carryFlag (s.reg x) (s.reg y)))

/-- 8XY5: V[x] - V[y], then NOT borrow into VF (R132). -/
def execSub (x y : Reg) (s : State) : Result :=
  .next (s.setResultFlag x (s.reg x - s.reg y) (notBorrowFlag (s.reg x) (s.reg y)))

/-- 8XY6: V[x] shifted right by one, then its old bit 0 into VF; y is ignored (R124, R133). -/
def execShr (x _y : Reg) (s : State) : Result :=
  .next (s.setResultFlag x (s.reg x >>> 1) (shrFlag (s.reg x)))

/-- 8XY7: V[y] - V[x] into V[x], then NOT borrow into VF (R134). -/
def execSubn (x y : Reg) (s : State) : Result :=
  .next (s.setResultFlag x (s.reg y - s.reg x) (notBorrowFlag (s.reg y) (s.reg x)))

/-- 8XYE: V[x] shifted left by one, then its old bit 7 into VF; y is ignored (R124, R135). -/
def execShl (x _y : Reg) (s : State) : Result :=
  .next (s.setResultFlag x (s.reg x <<< 1) (shlFlag (s.reg x)))

/-- CXKK with the byte `r` drawn: `V[x] <- r & kk` (R136). -/
def rndWith (r : Byte) (x : Reg) (kk : Byte) (s : State) : State := s.setReg x (r &&& kk)

/-- CXKK: a free byte, one draw for each execution (R136, D14; log 2). -/
def execRnd (x : Reg) (kk : Byte) (s : State) : Result := .next (rndWith s.freeDraw x kk s.countDraw)

end Sys2Proof.Machine
end

