-- ==== Sys2Proof/Machine/Control.lean ====
section
/-! DEFINITION. Machine/Control.lean: 0NNN, returns, jumps, calls and the conditional skips (42_control.md). PC is already the
address of the next instruction in sequence; a target is never masked, aligned or checked (R170; log 14). -/

namespace Sys2Proof.Machine

/-- 00EE: `PC <- pop(S)`, StackUnderflow when the stack is empty (R172). -/
def execRet (s : State) : Result := popThen (encode .ret) (fun a t => t.setPc a) s

/-- 1NNN: `PC <- zext_16(nnn)` (R174). -/
def execJp (nnn : Addr12) (s : State) : Result := .next (s.setPc (zextAddr nnn))

/-- 2NNN: push the advanced PC, then jump; StackOverflow when 16 entries are there (R176). -/
def execCall (nnn : Addr12) (s : State) : Result :=
  pushThen (encode (.call nnn)) s.pc (fun t => t.setPc (zextAddr nnn)) s

/-- 3XKK: skip if V[x] = kk (R182). -/
def execSeImm (x : Reg) (kk : Byte) (s : State) : Result := .next (s.skipIf (s.reg x == kk))

/-- 4XKK: skip if V[x] ≠ kk (R184). -/
def execSneImm (x : Reg) (kk : Byte) (s : State) : Result := .next (s.skipIf (s.reg x != kk))

/-- 5XY0: skip if V[x] = V[y] (R186). -/
def execSeReg (x y : Reg) (s : State) : Result := .next (s.skipIf (s.reg x == s.reg y))

/-- 9XY0: skip if V[x] ≠ V[y] (R188). -/
def execSneReg (x y : Reg) (s : State) : Result := .next (s.skipIf (s.reg x != s.reg y))

/-- BNNN: `PC <- zext_16(nnn) +_16 zext_16(V[0])`, stored unmasked (R180). -/
def execJpV0 (nnn : Addr12) (s : State) : Result := .next (s.setPc (zextAddr nnn + zextByte (s.reg 0)))

/-- 0NNN: always `Fatal(UnimplementedOpcode, op)` (R171, D5; log 12). -/
def execSys (nnn : Addr12) (_s : State) : Result := raiseFatal (.unimplementedOpcode (encode (.sys nnn)))

end Sys2Proof.Machine
end

