-- ==== Sys2Proof/Machine/Display.lean ====
section
/-! DEFINITION. Machine/Display.lean: 00E0 and DXYN, with the XOR sprite blitter and the collision detector
(41_display.md R150 to R158). -/

namespace Sys2Proof.Machine

/-- 00E0: every pixel off, no event, VF unchanged (R150). -/
def execCls (s : State) : Result := .next (s.setFb Framebuffer.clear)

/-- The picture and the collision so far. -/
abbrev Blit := Framebuffer × Bool

/-- XOR one sprite bit that is on into pixel (r, c): a pixel already on is a collision (R152, R155). -/
def blitPixel (r : Fin 32) (c : Fin 64) (acc : Blit) : Blit := (acc.1.toggle r c, acc.2 || acc.1.pixel r c)

/-- The row of the framebuffer that sprite row `row` is drawn at: per-pixel wrap (R154). -/
def spriteRow (cy : Byte) (row : Nat) : Fin 32 := Fin.ofNat 32 (cy.toNat + row)

/-- The column that sprite column `col` is drawn at (R154). -/
def spriteCol (cx : Byte) (col : Nat) : Fin 64 := Fin.ofNat 64 (cx.toNat + col)

/-- One sprite row, its byte `b` read most significant bit first (R152, R153). -/
def blitRow (b : Byte) (cx cy : Byte) (row : Nat) (acc : Blit) : Blit :=
  (List.range 8).foldl
    (fun acc col => if b.getLsbD (7 - col) then blitPixel (spriteRow cy row) (spriteCol cx col) acc else acc) acc

/-- The sprite of `n` rows whose row k is the byte `sprite k`, drawn at column cx and row cy (R152). -/
def blitSprite (sprite : Nat → Byte) (cx cy : Byte) (n : Nat) (f : Framebuffer) : Blit :=
  (List.range n).foldl (fun acc row => blitRow (sprite row) cx cy row acc) (f, false)

/-- Sprite row k: the byte at (I + k) mod 4096 (R153). -/
def spriteByte (s : State) (k : Nat) : Byte := readByte s.mem (indexAddress s k)

/-- What DXYN draws: coordinates, I and memory are read before any write (R157, D4; log 16). -/
def drwBlit (x y : Reg) (n : Count) (s : State) : Blit := blitSprite (spriteByte s) (s.reg x) (s.reg y) n.val s.fb

/-- DXYN: the picture, then VF once with the collision, and always the event Draw (R152, R156, R157). -/
def execDrw (x y : Reg) (n : Count) (s : State) : Result :=
  .next (((s.setFb (drwBlit x y n s).1).setFlag (drwBlit x y n s).2).setEvent .draw)

end Sys2Proof.Machine
end

