-- ==== Sys2Proof/Machine/Index.lean ====
section
/-! DEFINITION. Machine/Index.lean: the index register and the memory block operations (43_index_memory.md). -/

namespace Sys2Proof.Machine

/-- ANNN: `I <- zext_16(nnn)` (R200; log 21). -/
def execLdI (nnn : Addr12) (s : State) : Result := .next (s.setI (zextAddr nnn))

/-- FX1E: `I <- I +_16 zext_16(V[x])`, no flag (R202, D20; logs 20 and 21). -/
def execAddI (x : Reg) (s : State) : Result := .next (s.setI (s.i + zextByte (s.reg x)))

/-- FX29: `I <- FONT_BASE + 5 * V[x]`; the spec refuses V[x] > 0xF (R204, D10; logs 10 and 21). -/
def execLdF (x : Reg) (s : State) : Result :=
  match hexDigit (s.reg x) with
  | some _ => .next (s.setI (glyphAddress fontBase (s.reg x)))
  | none => refuseUnsettled (.fontDigitOutOfRange (encode (.ldF x)))

/-- The three decimal digits of a byte: hundreds, tens, ones (R208). -/
def bcdDigits (b : Byte) : List Byte :=
  [BitVec.ofNat 8 (b.toNat / 100), BitVec.ofNat 8 (b.toNat / 10 % 10), BitVec.ofNat 8 (b.toNat % 10)]

/-- FX33: the digits of V[x] at I, I + 1 and I + 2; I is unchanged (R208). -/
def execLdB (x : Reg) (s : State) : Result :=
  .next (s.setMem (writeBytes s.mem (indexAddress s 0) (bcdDigits (s.reg x))))

/-- The end of FX55 and FX65: `I <- I +_16 (x + 1)` if LOADSTORE_ADVANCES_I (R214; log 6). -/
def State.advanceI (advances : Bool) (x : Reg) (s : State) : State :=
  s.setI (if advances then s.i + BitVec.ofNat 16 (x.val + 1) else s.i)

/-- FX55 with the parameter given: V0..Vx to I, I + 1, …, I + x (R210). -/
def storeRegs (advances : Bool) (x : Reg) (s : State) : State :=
  (s.setMem (writeBytes s.mem (indexAddress s 0) (s.regsUpTo x))).advanceI advances x

/-- FX55 (R210). -/
def execLdiMem (x : Reg) (s : State) : Result := .next (storeRegs Config.loadStoreAdvancesI x s)

/-- FX65 with the parameter given: V0..Vx from I, I + 1, …, I + x (R212). -/
def loadRegs (advances : Bool) (x : Reg) (s : State) : State :=
  (s.setRegsUpTo x (fun r => readByte s.mem (indexAddress s r.val))).advanceI advances x

/-- FX65 (R212). -/
def execLdvMem (x : Reg) (s : State) : Result := .next (loadRegs Config.loadStoreAdvancesI x s)

end Sys2Proof.Machine
end

