-- ==== Sys2Proof/Machine/TimerKey.lean ====
section
/-! DEFINITION. Machine/TimerKey.lean: the timer and keypad instructions (44_timer_key.md), and `tick` and `refresh`, which
the host calls between steps (60_exceptions.md R270, R276). -/

namespace Sys2Proof.Machine

/-- FX07: `V[x] <- DT` (R230; log 29). -/
def execLdvDt (x : Reg) (s : State) : Result := .next (s.setReg x s.dt)

/-- FX15: `DT <- V[x]` (R232; log 29). -/
def execLddt (x : Reg) (s : State) : Result := .next (s.setDt (s.reg x))

/-- FX18: `ST <- V[x]` (R233; log 21). -/
def execLdSt (x : Reg) (s : State) : Result := .next (s.setSt (s.reg x))

/-- FX0A: with a key down, its number into V[x]; with none, PC back to this FX0A and the event WaitForKey (R235 to R238,
D13; log 19). -/
def execLdvKey (x : Reg) (s : State) : Result :=
  .next (match anyPressed s with
    | some k => s.setReg x (keyByte k)
    | none => s.rewindPc.setEvent .waitForKey)

/-- EX9E: skip if key V[x] is pressed; the spec refuses V[x] > 0xF (R240, R243, R244, D11; log 11). -/
def execSkp (x : Reg) (s : State) : Result :=
  match hexDigit (s.reg x) with
  | some k => .next (s.skipIf (s.pressed k))
  | none => refuseUnsettled (.keyIndexOutOfRange (encode (.skp x)))

/-- EXA1: skip if key V[x] is not pressed; the spec refuses V[x] > 0xF (R242, R243, R244, D11; log 11). -/
def execSknp (x : Reg) (s : State) : Result :=
  match hexDigit (s.reg x) with
  | some k => .next (s.skipIf (!s.pressed k))
  | none => refuseUnsettled (.keyIndexOutOfRange (encode (.sknp x)))

/-- One timer's countdown, floored at 0 (R270). -/
def countDown (t : Byte) : Byte := if t.toNat > 0 then t - 1 else t

/-- `tick()`: both timers, independently; no other state, no event (R270). -/
def State.tick (s : State) : State := (s.setDt (countDown s.dt)).setSt (countDown s.st)

/-- `refresh(real_keys_down)`: replaces the whole keypad; a key not in the list is released (R276). -/
def State.refresh (s : State) (down : List Key) : State := s.setKeys (Vector.ofFn (fun k => decide (k ∈ down)))

end Sys2Proof.Machine
end

