-- ==== Sys2Proof/Machine/Step.lean ====
section
/-! DEFINITION. Machine/Step.lean: one step of the CORE (30_encoding.md R90), and placing an instruction where it fetches. -/

namespace Sys2Proof.Machine

/-- `step`: fetch the word at PC, advance PC by 2, decode, run the handler (R90). -/
def step (s : State) : Host.Outcome State Fault Refusal :=
  match fetchDecode s with
  | .run i t => exec i t
  | .stop f => raiseFatal f

/-- The state with the table word `w` at PC and PC + 1 (mod 4096), where the next step fetches it (log 23). -/
def State.withFetchWord (s : State) (nbits w : Nat) : State := placeWord s (tableWord nbits w)

end Sys2Proof.Machine
end

