-- ==== Sys2Proof/Machine/Assembler.lean ====
section
/-! DEFINITION. Machine/Assembler.lean: the assembler syntax of 30_encoding.md R94 (D28; log 31), as data: a mnemonic and its
operands, destination first. No meaning depends on it. -/

namespace Sys2Proof.Machine

/-- The mnemonics of R94's table. -/
inductive AsmMnemonic where
  | cls | ret | sys | jp | call | se | sne | ld | add | or | and | xor | sub | subn | shr | shl | rnd | drw | skp | sknp
  deriving DecidableEq, Repr

/-- The operands of R94's table: `V0`..`VF`, an immediate, and the operands written by name. -/
inductive AsmOperand where
  | v (r : Reg)
  | imm (n : Nat)
  /-- `I` -/
  | index
  /-- `[I]` -/
  | atIndex
  | dt
  | st
  | k
  | f
  | b
  deriving DecidableEq, Repr

/-- One line of a program. -/
structure AsmLine where
  mnemonic : AsmMnemonic
  operands : List AsmOperand
  deriving DecidableEq, Repr

/-- The line of an instruction, row by row from R94's table; SHR and SHL with their optional Vy. -/
def asmLine (i : Instr) : AsmLine :=
  match i with
  | .cls => ⟨.cls, []⟩
  | .ret => ⟨.ret, []⟩
  | .jp nnn => ⟨.jp, [.imm nnn.toNat]⟩
  | .call nnn => ⟨.call, [.imm nnn.toNat]⟩
  | .seImm x kk => ⟨.se, [.v x, .imm kk.toNat]⟩
  | .sneImm x kk => ⟨.sne, [.v x, .imm kk.toNat]⟩
  | .seReg x y => ⟨.se, [.v x, .v y]⟩
  | .ldImm x kk => ⟨.ld, [.v x, .imm kk.toNat]⟩
  | .addImm x kk => ⟨.add, [.v x, .imm kk.toNat]⟩
  | .ldReg x y => ⟨.ld, [.v x, .v y]⟩
  | .orReg x y => ⟨.or, [.v x, .v y]⟩
  | .andReg x y => ⟨.and, [.v x, .v y]⟩
  | .xorReg x y => ⟨.xor, [.v x, .v y]⟩
  | .addReg x y => ⟨.add, [.v x, .v y]⟩
  | .sub x y => ⟨.sub, [.v x, .v y]⟩
  | .shr x y => ⟨.shr, [.v x, .v y]⟩
  | .subn x y => ⟨.subn, [.v x, .v y]⟩
  | .shl x y => ⟨.shl, [.v x, .v y]⟩
  | .sneReg x y => ⟨.sne, [.v x, .v y]⟩
  | .ldI nnn => ⟨.ld, [.index, .imm nnn.toNat]⟩
  | .jpV0 nnn => ⟨.jp, [.v 0, .imm nnn.toNat]⟩
  | .rnd x kk => ⟨.rnd, [.v x, .imm kk.toNat]⟩
  | .drw x y n => ⟨.drw, [.v x, .v y, .imm n.val]⟩
  | .skp x => ⟨.skp, [.v x]⟩
  | .sknp x => ⟨.sknp, [.v x]⟩
  | .ldvDt x => ⟨.ld, [.v x, .dt]⟩
  | .ldvKey x => ⟨.ld, [.v x, .k]⟩
  | .lddt x => ⟨.ld, [.dt, .v x]⟩
  | .ldSt x => ⟨.ld, [.st, .v x]⟩
  | .addI x => ⟨.add, [.index, .v x]⟩
  | .ldF x => ⟨.ld, [.f, .v x]⟩
  | .ldB x => ⟨.ld, [.b, .v x]⟩
  | .ldiMem x => ⟨.ld, [.atIndex, .v x]⟩
  | .ldvMem x => ⟨.ld, [.v x, .atIndex]⟩
  | .sys nnn => ⟨.sys, [.imm nnn.toNat]⟩

/-- An immediate of `w` bits; a greater number is no operand of the instruction. -/
def withImm (w : Nat) (n : Nat) (f : BitVec w → Instr) : Option Instr :=
  if n < 2 ^ w then some (f (BitVec.ofNat w n)) else none

/-- The instruction of a line; none where no row of R94's table has its form. SHR and SHL without Vy have y = 0. -/
def assemble (line : AsmLine) : Option Instr :=
  match line.mnemonic, line.operands with
  | .cls, [] => some .cls
  | .ret, [] => some .ret
  | .sys, [.imm n] => (withImm 12 n .sys).filter Instr.wellFormed
  | .jp, [.imm n] => withImm 12 n .jp
  | .jp, [.v r, .imm n] => if r = 0 then withImm 12 n .jpV0 else none
  | .call, [.imm n] => withImm 12 n .call
  | .se, [.v x, .imm n] => withImm 8 n (.seImm x)
  | .se, [.v x, .v y] => some (.seReg x y)
  | .sne, [.v x, .imm n] => withImm 8 n (.sneImm x)
  | .sne, [.v x, .v y] => some (.sneReg x y)
  | .ld, [.v x, .imm n] => withImm 8 n (.ldImm x)
  | .ld, [.v x, .v y] => some (.ldReg x y)
  | .ld, [.index, .imm n] => withImm 12 n .ldI
  | .ld, [.v x, .dt] => some (.ldvDt x)
  | .ld, [.v x, .k] => some (.ldvKey x)
  | .ld, [.dt, .v x] => some (.lddt x)
  | .ld, [.st, .v x] => some (.ldSt x)
  | .ld, [.f, .v x] => some (.ldF x)
  | .ld, [.b, .v x] => some (.ldB x)
  | .ld, [.atIndex, .v x] => some (.ldiMem x)
  | .ld, [.v x, .atIndex] => some (.ldvMem x)
  | .add, [.v x, .imm n] => withImm 8 n (.addImm x)
  | .add, [.v x, .v y] => some (.addReg x y)
  | .add, [.index, .v x] => some (.addI x)
  | .or, [.v x, .v y] => some (.orReg x y)
  | .and, [.v x, .v y] => some (.andReg x y)
  | .xor, [.v x, .v y] => some (.xorReg x y)
  | .sub, [.v x, .v y] => some (.sub x y)
  | .subn, [.v x, .v y] => some (.subn x y)
  | .shr, [.v x] => some (.shr x 0)
  | .shr, [.v x, .v y] => some (.shr x y)
  | .shl, [.v x] => some (.shl x 0)
  | .shl, [.v x, .v y] => some (.shl x y)
  | .rnd, [.v x, .imm n] => withImm 8 n (.rnd x)
  | .drw, [.v x, .v y, .imm n] => withImm 4 n (fun m => .drw x y m.toFin)
  | .skp, [.v x] => some (.skp x)
  | .sknp, [.v x] => some (.sknp x)
  | _, _ => none

/-- The source's handler of each row, where R94 names one. -/
def sourceHandler (i : Instr) : Option String :=
  match i with
  | .cls => some "cls"
  | .ret => some "ret"
  | .jp _ => some "jp"
  | .call _ => some "call"
  | .seImm _ _ => some "se"
  | .sneImm _ _ => some "sne"
  | .seReg _ _ => some "se"
  | .ldImm _ _ => none
  | .addImm _ _ => none
  | .ldReg _ _ => none
  | .orReg _ _ => some "or"
  | .andReg _ _ => some "and"
  | .xorReg _ _ => some "xor"
  | .addReg _ _ => some "add"
  | .sub _ _ => some "sub"
  | .shr _ _ => some "shr"
  | .subn _ _ => some "subn"
  | .shl _ _ => some "shl"
  | .sneReg _ _ => some "sne"
  | .ldI _ => none
  | .jpV0 _ => some "jp_idx"
  | .rnd _ _ => none
  | .drw _ _ _ => some "drw"
  | .skp _ => some "skp"
  | .sknp _ => some "sknp"
  | .ldvDt _ => some "ldv_dt"
  | .ldvKey _ => some "ldv_key"
  | .lddt _ => some "lddt"
  | .ldSt _ => none
  | .addI _ => none
  | .ldF _ => none
  | .ldB _ => some "ldb"
  | .ldiMem _ => some "ldi_mem"
  | .ldvMem _ => some "ldv_mem"
  | .sys _ => none

end Sys2Proof.Machine
end

