-- ==== Sys2Proof/Machine/HostActions.lean ====
section
/-! DEFINITION. Machine/HostActions.lean: what the host does to the CORE between two steps (60_exceptions.md R277),
initialisation with a program image (70_reset_and_hazards.md R300 to R303), and runs. -/

namespace Sys2Proof.Machine

/-! ## Initialisation -/

/-- PROG_BASE (00_scope.md R6). -/
def progBase : Nat := 0x200

/-- The image, truncated at the destination boundary, written verbatim from 0x200 (R303). -/
def State.loadImage (s : State) (image : List Byte) : State :=
  s.setMem (writeBytes s.mem progBase (image.take (4096 - progBase)))

/-- The CORE after initialisation with a program image (R300, R303, R305). -/
def initialise (image : List Byte) : State := State.reset.loadImage image

/-! ## The host's view of the display -/

/-- The 2048 pixels, row-major: element r * 64 + c is `FB[r][c]` (60_exceptions.md R275, D22; log 27). -/
def displayView (s : State) : List Bool := (s.fb.toList.map Vector.toList).flatten

/-! ## Host actions -/

/-- What the host may call between two steps and that changes state (R277). -/
inductive HostAction where
  | step
  | tick
  | refresh (down : List Key)
  deriving DecidableEq, Repr

/-- A running CORE takes the action `f`; a halted one takes none (10_state.md R43, 60_exceptions.md R262; log 25). -/
def whenRunning (s : State) (f : State → State) : Result := if s.halted then raiseFatal .halted else .next (f s)

/-- One host action (R277). -/
def act (a : HostAction) (s : State) : Result :=
  match a with
  | .step => step s
  | .tick => whenRunning s State.tick
  | .refresh down => whenRunning s (fun t => t.refresh down)

/-- The state a run is in after an outcome from `s`: the next state, or `s` halted for good (R43, D18; log 9). -/
def settle (s : State) (r : Result) : State :=
  match r with
  | .next t => t
  | .fault _ => s.setHalted true
  | .refused _ => s.setHalted true

/-- The state after a list of host actions, first action first: every interleaving is such a list (R271, D21; log 22). -/
def runActions (actions : List HostAction) (s : State) : State :=
  match actions with
  | [] => s
  | a :: rest => runActions rest (settle s (act a s))

/-! ## The end of a run (60_exceptions.md R278, D31; log 30) -/

/-- A state at which a run can end for a claim: PC is the named address and the word there is a JP to itself. The machine
does not stop there. -/
abbrev RunEndsAt (a : Addr12) (s : State) : Prop := s.pc = zextAddr a ∧ fetchWord s = encode (.jp a)

/-- How a run ended, with its last state. -/
inductive RunEnd where
  /-- At the first state at the named PC whose word is a JP to itself. -/
  | selfLoop (t : State)
  /-- By a fatal condition. -/
  | fatal (last : State) (f : Fault)
  /-- By a refusal. -/
  | refused (last : State) (r : Refusal)
  /-- Because the host calls nothing more. -/
  | hostStopped (t : State)
  deriving DecidableEq, Repr

/-- The end of the run that the actions make from `s`: the FIRST state that `RunEndsAt` the named address, unless the run
stops before it. -/
def endOfRun (a : Addr12) (actions : List HostAction) (s : State) : RunEnd :=
  if RunEndsAt a s then .selfLoop s
  else
    match actions with
    | [] => .hostStopped s
    | x :: rest =>
      match act x s with
      | .next t => endOfRun a rest t
      | .fault f => .fatal s f
      | .refused r => .refused s r

end Sys2Proof.Machine
end

