-- ==== Sys2Proof/Safety.lean ====
section
/-! DEFINITION. Safety.lean: the terms claims use: the invariant, the parts of the state and what a transition leaves alone,
completion, related outcomes, and reachable states. -/

namespace Sys2Proof.Machine

/-- The invariant of the CORE: memory in canonical form, and at most 16 return addresses (10_state.md R35, R42). -/
abbrev State.Inv (s : State) : Prop := s.mem.wf ∧ s.stack.length ≤ 16

/-! ## Frames -/

/-- One observable part of the state, as small as the spec names it. -/
inductive Part where
  | reg (r : Reg)
  | pc
  | index
  | delayTimer
  | soundTimer
  | stack
  | byteAt (a : Nat)
  | pixel (r : Fin 32) (c : Fin 64)
  | key (k : Key)
  | halted
  | event
  | draws
  deriving DecidableEq, Repr

/-- The part reads the same in both states; memory is read through the bus, one byte at a time (20_memory.md R52). -/
def Part.Same (p : Part) (s t : State) : Prop :=
  match p with
  | .reg r => t.reg r = s.reg r
  | .pc => t.pc = s.pc
  | .index => t.i = s.i
  | .delayTimer => t.dt = s.dt
  | .soundTimer => t.st = s.st
  | .stack => t.stack = s.stack
  | .byteAt a => readByte t.mem a = readByte s.mem a
  | .pixel r c => t.fb.pixel r c = s.fb.pixel r c
  | .key k => t.pressed k = s.pressed k
  | .halted => t.halted = s.halted
  | .event => t.event = s.event
  | .draws => t.draws = s.draws

/-- The frame: every part outside `touched` reads the same in `t` as in `s`. -/
def ChangesOnly (touched : Part → Prop) (s t : State) : Prop := ∀ p : Part, ¬ touched p → p.Same s t

/-- The parts that `n` bytes stored through I from `s` write: every bus address of a byte I + k, k < n (R55, R56). -/
def StoredBytes (s : State) (n : Nat) (p : Part) : Prop :=
  ∃ a k, p = .byteAt a ∧ k < n ∧ busAddress a = busAddress (indexAddress s k)

/-! ## Completion -/

/-- The instruction answers a next state, of which `P` holds. -/
def Completes (i : Instr) (s : State) (P : State → Prop) : Prop := ∃ t, exec i s = .next t ∧ P t

/-- The instruction completes, V[x] becomes `b`, and nothing else changes. -/
def WritesRegister (i : Instr) (s : State) (x : Reg) (b : Byte) : Prop :=
  Completes i s (fun t => t.reg x = b ∧ ChangesOnly (fun p => p = .reg x) s t)

/-- The instruction completes with VF at 1 or 0 by `flag` (40_alu.md R121). -/
def SetsFlag (i : Instr) (s : State) (flag : Prop) : Prop :=
  Completes i s (fun t => (flag → t.reg 15 = 1) ∧ (¬ flag → t.reg 15 = 0))

/-- The instruction completes, V[x] becomes `result` unless x is 0xF (there the flag is the later write, R122), and nothing
but V[x] and VF changes. -/
def WritesResult (i : Instr) (s : State) (x : Reg) (result : Nat) : Prop :=
  Completes i s (fun t => (x ≠ 15 → (t.reg x).toNat = result) ∧ ChangesOnly (fun p => p = .reg x ∨ p = .reg 15) s t)

/-- The instruction completes, PC becomes `a`, and nothing else changes. -/
def WritesPc (i : Instr) (s : State) (a : Word) : Prop :=
  Completes i s (fun t => t.pc = a ∧ ChangesOnly (fun p => p = .pc) s t)

/-- The instruction completes, I becomes the number `a`, and nothing else changes. -/
def WritesIndex (i : Instr) (s : State) (a : Nat) : Prop :=
  Completes i s (fun t => t.i.toNat = a ∧ ChangesOnly (fun p => p = .index) s t)

/-! ## The sprite of DXYN, as a set of pixels (41_display.md R153, R154) -/

/-- A sprite bit that is on lands on pixel (r, c): row k of the sprite is the byte at I + k, drawn at row V[y] + k, its bit 7
at column V[x]; rows wrap mod 32 and columns mod 64. -/
def SpriteCovers (s : State) (x y : Reg) (n : Count) (r : Fin 32) (c : Fin 64) : Prop :=
  ∃ row < n.val, ∃ col < 8, r.val = ((s.reg y).toNat + row) % 32 ∧ c.val = ((s.reg x).toNat + col) % 64 ∧
    (readByte s.mem (indexAddress s row)).getLsbD (7 - col) = true

/-! ## Two runs side by side -/

/-- The two answers are of one kind, with related next states or the same reason. -/
def SameOutcome (related : State → State → Prop) (a b : Result) : Prop :=
  match a, b with
  | .next t, .next u => related t u
  | .fault f, .fault g => f = g
  | .refused r, .refused q => r = q
  | _, _ => False

/-- The states differ in ST at most. -/
def SameButSoundTimer (s t : State) : Prop := t = s.setSt t.st

/-- The states differ at most in PC and the stacked return addresses, and there only by multiples of 4096. -/
def SameModuloMemorySize (s t : State) : Prop :=
  t = (s.setPc t.pc).setStack t.stack ∧ t.pc.toNat % 4096 = s.pc.toNat % 4096 ∧
    List.Forall₂ (fun a b : Word => b.toNat % 4096 = a.toNat % 4096) s.stack t.stack

/-! ## Runs -/

/-- A state some list of host actions reaches from initialisation with some image. -/
def Reachable (t : State) : Prop := ∃ image actions, t = runActions actions (initialise image)

end Sys2Proof.Machine
end

