-- ==== Sys2Proof/Certificates/Slice0/Obligations.lean ====
section
/-! DEFINITION. Obligations.lean: the statements for the provers, from the numbered rules of spec/. Each docstring names the
rule or the section; marks the spec itself puts on a clause ([decision], [derived], [from general knowledge]) are repeated. -/

open Sys2Proof Sys2Proof.Machine

/-! ## Encoding, decoding and the step -/

/-- 30_encoding.md sections 1 and 2 (patterns: [from general knowledge] but for 00E0, F055, F065; masks: D6; log 17): decoding
the word of a well-formed instruction gives the instruction, with every operand. -/
def Obligations.DecodeOfEncodeIsTheInstruction : Prop :=
  ∀ i : Instr, i.wellFormed = true → decode (encode i) = .instr i

/-- 30_encoding.md R82 [derived]: no encoding has a don't-care bit, so a decoded instruction's word is the word decoded, and it
is well formed. -/
def Obligations.EncodeOfDecodeIsTheWord : Prop :=
  ∀ (op : Word) (i : Instr), decode op = .instr i → encode i = op ∧ i.wellFormed = true

/-- 30_encoding.md R85 [derived]: the entries are pairwise disjoint, so at most one matches a word and registration order never
changes the result. -/
def Obligations.DispatchOrderNeverMatters : Prop :=
  ∀ op : Word, (dispatchTable.filter (rowMatches op)).length ≤ 1 ∧
    ∀ rows : List DispatchRow, rows.Perm dispatchTable →
      (rows.find? (rowMatches op)).map (fun row => row.handler op) = dispatch op

/-- 30_encoding.md R88 [derived] and R86: the words no entry matches, class by class. -/
def Obligations.UnmatchedWordsByClass : Prop :=
  ∀ op : Word, dispatch op = none ↔
    (op.extractLsb' 12 4 = 0x0 ∧ op ≠ 0x00E0 ∧ op ≠ 0x00EE) ∨
    (op.extractLsb' 12 4 = 0x5 ∧ op.extractLsb' 0 4 ≠ 0) ∨
    (op.extractLsb' 12 4 = 0x8 ∧ op.extractLsb' 0 4 ∈ [0x8, 0x9, 0xA, 0xB, 0xC, 0xD, 0xF]) ∨
    (op.extractLsb' 12 4 = 0x9 ∧ op.extractLsb' 0 4 ≠ 0) ∨
    (op.extractLsb' 12 4 = 0xE ∧ op.extractLsb' 0 8 ∉ [0x9E, 0xA1]) ∨
    (op.extractLsb' 12 4 = 0xF ∧ op.extractLsb' 0 8 ∉ [0x07, 0x0A, 0x15, 0x18, 0x1E, 0x29, 0x33, 0x55, 0x65])

/-- 30_encoding.md R81: every field is the numeric bit field, and is zero-extended where it meets a wider operand. -/
def Obligations.FieldsAreUnsignedBitFields : Prop :=
  ∀ op : Word, (fieldX op).val = op.toNat / 256 % 16 ∧ (fieldY op).val = op.toNat / 16 % 16 ∧
    (fieldN op).val = op.toNat % 16 ∧ (fieldKk op).toNat = op.toNat % 256 ∧ (fieldNnn op).toNat = op.toNat % 4096 ∧
    (zextAddr (fieldNnn op)).toNat = op.toNat % 4096

/-- Words written out from R84's encodings, one of each class, decode to the instructions they stand for (a sanity
statement). -/
def Obligations.WordsOfEachClassDecode : Prop :=
  [0x00E0, 0x00EE, 0x1ABC, 0x2ABC, 0x3A42, 0x4A43, 0x5AB0, 0x6A42, 0x7AFF, 0x8126, 0x9AB0, 0xA123, 0xBFFF, 0xC10F, 0xD01F,
    0xE19E, 0xF355, 0x0123].map (fun op => decode op) =
  [.cls, .ret, .jp 0xABC, .call 0xABC, .seImm 10 0x42, .sneImm 10 0x43, .seReg 10 11, .ldImm 10 0x42, .addImm 10 0xFF,
    .shr 1 2, .sneReg 10 11, .ldI 0x123, .jpV0 0xFFF, .rnd 1 0x0F, .drw 0 1 15, .skp 1, .ldiMem 3, .sys 0x123].map
      Decoded.instr

/-- 30_encoding.md R90: fetch the two bytes at PC, advance PC by 2 (mod 2^16: D1), no event yet, decode, run the handler;
a word no entry matches is fatal. -/
def Obligations.StepRunsTheDecodedInstruction : Prop :=
  ∀ s : State, s.halted = false →
    (∀ i, decodeBytes (readByte s.mem s.pc.toNat) (readByte s.mem (s.pc.toNat + 1)) = .instr i →
      step s = exec i ((s.setEvent .none).setPc (s.pc + 2))) ∧
    (dispatch (readWord s.mem s.pc.toNat) = none →
      step s = .fault (.unimplementedOpcode (readWord s.mem s.pc.toNat)))

/-- 30_encoding.md R87: a word no entry matches is fatal, with the raw word, whatever the state. The second clause is the
model's own choice (DESIGN CHOICE, log 9, after D18 and 60_exceptions.md R263): the state a run settles in is the one before
the step, halted, with its PC; R87 has PC advanced before the raise and says that this PC is never observed. -/
def Obligations.UnmatchedWordIsFatal : Prop :=
  ∀ s : State, s.halted = false → (∀ row ∈ dispatchTable, rowMatches (fetchWord s) row = false) →
    step s = .fault (.unimplementedOpcode (fetchWord s)) ∧
    settle s (act .step s) = s.setHalted true

/-- 42_control.md R171 (D5; log 12): a word 0NNN other than 00E0 and 00EE always raises Fatal(UnimplementedOpcode, op),
0x0000 included. -/
def Obligations.SysIsFatal : Prop :=
  ∀ (s : State) (nnn : Addr12),
    exec (.sys nnn) s = .fault (.unimplementedOpcode (zextAddr nnn)) ∧
    (s.halted = false → nnn ≠ 0x0E0 → nnn ≠ 0x0EE → fetchWord s = zextAddr nnn →
      step s = .fault (.unimplementedOpcode (zextAddr nnn)))

/-- 60_exceptions.md R260: a step stops with a fault exactly by an unmatched word (0NNN among them), a CALL with 16 entries, a
RET with none, each with the word fetched; the model's `halted` (log 9) is the fault of a run that has already ended. -/
def Obligations.FatalConditionsAreExactlyThese : Prop :=
  ∀ (s : State) (f : Fault), s.stack.length ≤ 16 →
    (step s = .fault f ↔
      (s.halted = true ∧ f = .halted) ∨
      (s.halted = false ∧ dispatch (fetchWord s) = none ∧ f = .unimplementedOpcode (fetchWord s)) ∨
      (s.halted = false ∧ (∃ nnn, decode (fetchWord s) = .instr (.call nnn)) ∧ s.stack.length = 16 ∧
        f = .stackOverflow (fetchWord s)) ∨
      (s.halted = false ∧ decode (fetchWord s) = .instr .ret ∧ s.stack = [] ∧ f = .stackUnderflow (fetchWord s)))

/-- 60_exceptions.md R265 (D10, D11; logs 10 and 11): a step is refused exactly by FX29 with V[x] > 0xF and by EX9E and EXA1
with V[x] > 0xF. -/
def Obligations.RefusalsAreExactlyThese : Prop :=
  ∀ (s : State) (r : Refusal), step s = .refused r ↔
    s.halted = false ∧
    ((∃ x, decode (fetchWord s) = .instr (.ldF x) ∧ (s.reg x).toNat > 0xF ∧ r = .fontDigitOutOfRange (fetchWord s)) ∨
     (∃ x, (decode (fetchWord s) = .instr (.skp x) ∨ decode (fetchWord s) = .instr (.sknp x)) ∧ (s.reg x).toNat > 0xF ∧
        r = .keyIndexOutOfRange (fetchWord s)))

/-- 30_encoding.md R91: Draw exactly by DXYN, every time it executes; WaitForKey exactly by FX0A with no key down. -/
def Obligations.EventsOfAStep : Prop :=
  ∀ (s t : State) (i : Instr), step s = .next t → decode (fetchWord s) = .instr i →
    (t.event = .draw ↔ ∃ x y n, i = .drw x y n) ∧
    (t.event = .waitForKey ↔ (∃ x, i = .ldvKey x) ∧ ∀ k, s.pressed k = false)

/-- Where each instruction leaves PC, from the state before the step (10_state.md R26). -/
def Sys2Proof.Machine.pcAfterStep (i : Instr) (s : State) (a : Word) : Prop :=
  let skips (c : Prop) : Prop := (c → a = s.pc + 4) ∧ (¬ c → a = s.pc + 2)
  match i with
  | .jp nnn => a.toNat = nnn.toNat
  | .call nnn => a.toNat = nnn.toNat
  | .ret => s.stack.getLast? = some a
  | .jpV0 nnn => a.toNat = nnn.toNat + (s.reg 0).toNat
  | .seImm x kk => skips (s.reg x = kk)
  | .sneImm x kk => skips (s.reg x ≠ kk)
  | .seReg x y => skips (s.reg x = s.reg y)
  | .sneReg x y => skips (s.reg x ≠ s.reg y)
  | .skp x => skips (∃ k : Key, k.val = (s.reg x).toNat ∧ s.pressed k = true)
  | .sknp x => skips (∃ k : Key, k.val = (s.reg x).toNat ∧ s.pressed k = false)
  | .ldvKey _ => ((∀ k, s.pressed k = false) → a = s.pc) ∧ ((∃ k, s.pressed k = true) → a = s.pc + 2)
  | _ => a = s.pc + 2

/-- 10_state.md section 3, R26 (wrap: D1; log 13): PC after every step that answers a next state. -/
def Obligations.ProgramCounterAfterEachStep : Prop :=
  ∀ (s t : State) (i : Instr), step s = .next t → decode (fetchWord s) = .instr i → pcAfterStep i s t.pc

/-- 10_state.md section 10, R43 (D18; logs 9 and 25): a halted machine takes no action and stays as it is through any run; a
fatal or refused outcome halts the machine and changes nothing else. -/
def Obligations.HaltedMachineStaysHalted : Prop :=
  (∀ (actions : List HostAction) (s : State), s.halted = true →
    (∀ a, act a s = .fault .halted) ∧ runActions actions s = s) ∧
  (∀ (s : State) (a : HostAction), (∀ t, act a s ≠ .next t) → settle s (act a s) = s.setHalted true)

/-! ## Memory, invariants and initialisation -/

/-- 20_memory.md R52, R53 (the edge at 0xFFF: D19; log 18): a byte read masks its address; a word read is two byte reads,
big-endian, for all addresses. -/
def Obligations.WordReadIsTwoByteReadsBigEndian : Prop :=
  ∀ (m : Memory) (a : Nat),
    readByte m a = m.get (a % 4096) ∧
    (readWord m a).toNat = 256 * (m.get (a % 4096)).toNat + (m.get ((a + 1) % 4096)).toNat

/-- 20_memory.md R54: writing a byte sets it at the masked address and changes no other byte. -/
def Obligations.WriteByteSetsOneByte : Prop :=
  ∀ (m : Memory) (a a' : Nat) (b : Byte), m.wf →
    readByte (writeByte m a b) a' = if a' % 4096 = a % 4096 then b else readByte m a'

/-- Equal memories are equal data: canonical memories that read the same everywhere are the same list (log 24). -/
def Obligations.CanonicalMemoryIsUnique : Prop :=
  ∀ m m' : Memory, m.wf → m'.wf → (∀ a < 4096, readByte m a = readByte m' a) → m = m'

/-- The invariant is kept by every step from every state that meets it (10_state.md R35, R42). -/
def Obligations.StepKeepsTheInvariant : Prop :=
  ∀ s t : State, s.Inv → step s = .next t → t.Inv

/-- The invariant holds right after initialisation with any image. -/
def Obligations.InitialisationMeetsTheInvariant : Prop :=
  State.reset.Inv ∧ ∀ image : List Byte, (initialise image).Inv

/-- The invariant holds in every state any interleaving of steps, ticks and keypad refreshes reaches (R271, D21; log 22). -/
def Obligations.EveryReachableStateMeetsTheInvariant : Prop :=
  ∀ t : State, Reachable t → t.Inv

/-- 10_state.md R24, R29: after initialisation every general register is 0 and PC is 0x200. -/
def Obligations.RegistersAfterInitialisation : Prop :=
  ∀ image : List Byte, (∀ r, (initialise image).reg r = 0) ∧ (initialise image).pc = 0x200

/-- 70_reset_and_hazards.md section 1, the rest of R300: I is 0; DT and ST by D15 (log 7), stack, display and keypad by D16
(log 8); not halted. -/
def Obligations.RestOfTheInitialState : Prop :=
  ∀ image : List Byte, (initialise image).i = 0 ∧ (initialise image).dt = 0 ∧ (initialise image).st = 0 ∧
    (initialise image).stack = [] ∧ (∀ r c, (initialise image).fb.pixel r c = false) ∧
    (∀ k, (initialise image).pressed k = false) ∧ (initialise image).halted = false

/-- 70_reset_and_hazards.md section 1, R303: the image stands verbatim from 0x200, truncated at the end of memory, and no
address below 0x200 is touched. -/
def Obligations.ImageIsLoadedVerbatimAndTruncated : Prop :=
  ∀ image : List Byte,
    (∀ j < min image.length 3584, readByte (initialise image).mem (0x200 + j) = image.getD j 0) ∧
    (∀ a < 0x200, readByte (initialise image).mem a = readByte State.reset.mem a) ∧
    (∀ a < 4096, 0x200 + image.length ≤ a → readByte (initialise image).mem a = 0)

/-- 70_reset_and_hazards.md section 1, R302 (D9, log 4) and 20_memory.md R63 (D8, log 3): FONT_BASE is 0x000 or 0x050; after
initialisation the 80 bytes of FONT_GLYPHS stand from it and every other byte of the reserved region is 0. The default of
FONT_GLYPHS is the whole table of R302 ([from general knowledge], D9, log 4); with it and either FONT_BASE the initial contents
hold glyph d at FONT_BASE + 5d. -/
def Obligations.FontAfterInitialisation : Prop :=
  (fontBase = 0x000 ∨ fontBase = 0x050) ∧
  (∀ k < 80, readByte State.reset.mem (fontBase.toNat + k) = fontGlyphs.getD k 0) ∧
  (∀ a < 0x200, a < fontBase.toNat ∨ fontBase.toNat + 80 ≤ a → readByte State.reset.mem a = 0) ∧
  (∀ a < 4096, readByte State.reset.mem a = initialByteOf fontBase.toNat fontGlyphs a) ∧
  fontGlyphs.length = 80 ∧ canonicalGlyphs.length = 80 ∧
  ∀ base ∈ [0x000, 0x050],
    (List.range 16).map (fun d => (List.range 5).map (fun r => initialByteOf base canonicalGlyphs (base + 5 * d + r))) =
      [[0xF0, 0x90, 0x90, 0x90, 0xF0], [0x20, 0x60, 0x20, 0x20, 0x70], [0xF0, 0x10, 0xF0, 0x80, 0xF0],
       [0xF0, 0x10, 0xF0, 0x10, 0xF0], [0x90, 0x90, 0xF0, 0x10, 0x10], [0xF0, 0x80, 0xF0, 0x10, 0xF0],
       [0xF0, 0x80, 0xF0, 0x90, 0xF0], [0xF0, 0x10, 0x20, 0x40, 0x40], [0xF0, 0x90, 0xF0, 0x90, 0xF0],
       [0xF0, 0x90, 0xF0, 0x10, 0xF0], [0xF0, 0x90, 0xF0, 0x90, 0x90], [0xE0, 0x90, 0xE0, 0x90, 0xE0],
       [0xF0, 0x80, 0x80, 0x80, 0xF0], [0xE0, 0x90, 0x90, 0x90, 0xE0], [0xF0, 0x80, 0xF0, 0x80, 0xF0],
       [0xF0, 0x80, 0xF0, 0x80, 0x80]]

/-! ## Classes 6, 7, 8 and C (40_alu.md) -/

/-- 40_alu.md sections 2 and 3: 6XKK, 7XKK, 8XY0, 8XY1, 8XY2 and 8XY3 complete in every state, write V[x] and nothing else; VF
is written only where x is 0xF (6XKK, 7XKK, 8XY0 [from general knowledge], D17; logs 20 and 21). -/
def Obligations.LoadsAndLogicWriteOneRegister : Prop :=
  ∀ (s : State) (x y : Reg) (kk : Byte),
    WritesRegister (.ldImm x kk) s x kk ∧
    WritesRegister (.addImm x kk) s x (BitVec.ofNat 8 (((s.reg x).toNat + kk.toNat) % 256)) ∧
    WritesRegister (.ldReg x y) s x (s.reg y) ∧
    WritesRegister (.orReg x y) s x (BitVec.ofNat 8 ((s.reg x).toNat ||| (s.reg y).toNat)) ∧
    WritesRegister (.andReg x y) s x (BitVec.ofNat 8 ((s.reg x).toNat &&& (s.reg y).toNat)) ∧
    WritesRegister (.xorReg x y) s x (BitVec.ofNat 8 ((s.reg x).toNat ^^^ (s.reg y).toNat))

/-- 40_alu.md R121: the flag each of the five instructions leaves in VF, always 0 or 1, for every x and y, x = 0xF among them
(that the flag is written last there is the spec's decision D3 in R122; log 15); the logical ones set none: VF changes only as their destination. -/
def Obligations.FlagsOfArithmeticAndLogic : Prop :=
  ∀ (s : State) (x y : Reg),
    (let a := (s.reg x).toNat; let b := (s.reg y).toNat
     SetsFlag (.addReg x y) s (a + b > 0xFF) ∧ SetsFlag (.sub x y) s (a ≥ b) ∧ SetsFlag (.subn x y) s (b ≥ a) ∧
     SetsFlag (.shl x y) s (a / 128 = 1) ∧ SetsFlag (.shr x y) s (a % 2 = 1)) ∧
    (x ≠ 15 → ∀ i ∈ [Instr.orReg x y, .andReg x y, .xorReg x y], Completes i s (fun t => t.reg 15 = s.reg 15))

/-- 40_alu.md section 4, R131 to R135 (x = 0xF: D3, log 15; y of the shifts ignored: R124): in every state each of the five
completes, writes the wrapped result to V[x] and changes nothing but V[x] and VF. -/
def Obligations.ArithmeticWritesTheWrappedResult : Prop :=
  ∀ (s : State) (x y : Reg),
    let a := (s.reg x).toNat; let b := (s.reg y).toNat
    WritesResult (.addReg x y) s x ((a + b) % 256) ∧
    WritesResult (.sub x y) s x ((256 + a - b) % 256) ∧
    WritesResult (.subn x y) s x ((256 + b - a) % 256) ∧
    WritesResult (.shl x y) s x (2 * a % 256) ∧
    WritesResult (.shr x y) s x (a / 2)

/-- 40_alu.md section 5 (CXKK [from general knowledge], D14; log 2): in every state CXKK completes with the next
free byte as its draw, the opaque freeByte of the counter; whatever byte r the draw gives, V[x] is r AND kk, one draw is counted
(the model's own counter), and nothing else changes. -/
def Obligations.RandomByteIsMasked : Prop :=
  ∀ (s : State) (x : Reg) (kk : Byte),
    exec (.rnd x kk) s = .next (rndWith (Config.freeByte s.draws) x kk s.countDraw) ∧
    ∀ r : Byte, (rndWith r x kk s.countDraw).reg x = r &&& kk ∧ (rndWith r x kk s.countDraw).draws = s.draws + 1 ∧
      ChangesOnly (fun p => p = .reg x ∨ p = .draws) s (rndWith r x kk s.countDraw)

/-! ## Display (41_display.md) -/

/-- 41_display.md R150: the exact word 0x00E0 clears the display: every pixel off, no event, VF and everything else unchanged
but PC, which the step advances. -/
def Obligations.ClearScreenTurnsEveryPixelOff : Prop :=
  ∀ s : State,
    (Completes .cls s (fun t => (∀ r c, t.fb.pixel r c = false) ∧ ChangesOnly (fun p => ∃ r c, p = .pixel r c) s t)) ∧
    (s.halted = false → fetchWord s = 0x00E0 →
      ∃ t, step s = .next t ∧ (∀ r c, t.fb.pixel r c = false) ∧ t.event = .none ∧ t.pc = s.pc + 2 ∧
        ChangesOnly (fun p => (∃ r c, p = .pixel r c) ∨ p = .pc ∨ p = .event) s t)

/-- 41_display.md R153, R154, with R152's effect, R155 and R157 (D4; log 16): in every state DXYN completes; a pixel the sprite
covers is toggled and every other pixel stays; VF is 1 if a covered pixel was on and else 0; the event is Draw; nothing else
changes. -/
def Obligations.DrawIsPointwiseXor : Prop :=
  ∀ (s : State) (x y : Reg) (n : Count),
    Completes (.drw x y n) s (fun t =>
      (∀ r c, SpriteCovers s x y n r c → t.fb.pixel r c = !s.fb.pixel r c) ∧
      (∀ r c, ¬ SpriteCovers s x y n r c → t.fb.pixel r c = s.fb.pixel r c) ∧
      ((∃ r c, SpriteCovers s x y n r c ∧ s.fb.pixel r c = true) → t.reg 15 = 1) ∧
      (¬ (∃ r c, SpriteCovers s x y n r c ∧ s.fb.pixel r c = true) → t.reg 15 = 0) ∧
      t.event = .draw ∧
      ChangesOnly (fun p => (∃ r c, p = .pixel r c) ∨ p = .reg 15 ∨ p = .event) s t)

/-- 41_display.md R158 [derived]: two DXYN back to back with the same operands, x and y not 0xF, restore the framebuffer, and
the second sets VF exactly if some covered pixel was off before the first. -/
def Obligations.DrawingTwiceRestoresThePicture : Prop :=
  ∀ (s t u : State) (x y : Reg) (n : Count), x ≠ 15 → y ≠ 15 →
    exec (.drw x y n) s = .next t → exec (.drw x y n) (beginStep t) = .next u →
    u.fb = s.fb ∧ (u.reg 15 = 1 ↔ ∃ r c, SpriteCovers s x y n r c ∧ s.fb.pixel r c = false)

/-- 60_exceptions.md section 7, R275 (order: D22; log 27): the host's view is the 2048 pixels, row-major. -/
def Obligations.DisplayViewIsRowMajor : Prop :=
  ∀ s : State, (displayView s).length = 2048 ∧
    ∀ (r : Fin 32) (c : Fin 64), (displayView s)[r.val * 64 + c.val]? = some (s.fb.pixel r c)

/-! ## Control transfer (42_control.md) -/

/-- 42_control.md section 2, R174 and R180: the jumps complete in every state and write PC alone; BNNN adds V0 and stores the
sum unmasked. -/
def Obligations.JumpsWriteOnlyPc : Prop :=
  ∀ (s : State) (nnn : Addr12),
    WritesPc (.jp nnn) s (BitVec.ofNat 16 nnn.toNat) ∧
    WritesPc (.jpV0 nnn) s (BitVec.ofNat 16 (nnn.toNat + (s.reg 0).toNat))

/-- 42_control.md section 3, R181 to R188: a skip completes in every state, adds a further 2 to PC exactly if its condition
holds, and changes nothing else. -/
def Obligations.SkipsAddTwoWhenTheConditionHolds : Prop :=
  ∀ (s : State) (x y : Reg) (kk : Byte),
    WritesPc (.seImm x kk) s (if s.reg x = kk then s.pc + 2 else s.pc) ∧
    WritesPc (.sneImm x kk) s (if s.reg x = kk then s.pc else s.pc + 2) ∧
    WritesPc (.seReg x y) s (if s.reg x = s.reg y then s.pc + 2 else s.pc) ∧
    WritesPc (.sneReg x y) s (if s.reg x = s.reg y then s.pc else s.pc + 2)

/-- 42_control.md R173, with the effects of R172 and R176: with fewer than 16 entries a call completes, pushes the advanced PC
and jumps; with 16 it is fatal and pushes nothing; with an entry a return completes and takes the last one; with none it is
fatal. -/
def Obligations.CallAndReturnUseABoundedStack : Prop :=
  ∀ (s : State) (nnn : Addr12),
    (s.stack.length < 16 → Completes (.call nnn) s (fun t => t.stack = s.stack ++ [s.pc] ∧ t.pc.toNat = nnn.toNat ∧
      ChangesOnly (fun p => p = .pc ∨ p = .stack) s t)) ∧
    (s.stack.length = 16 → exec (.call nnn) s = .fault (.stackOverflow (encode (.call nnn)))) ∧
    (∀ rest a, s.stack = rest ++ [a] → Completes .ret s (fun t => t.stack = rest ∧ t.pc = a ∧
      ChangesOnly (fun p => p = .pc ∨ p = .stack) s t)) ∧
    (s.stack = [] → exec .ret s = .fault (.stackUnderflow 0x00EE))

/-- 42_control.md R177 [derived]: a call and a return right at its target come back to the instruction after the call, the
stack as before. -/
def Obligations.CallThenReturnComesBack : Prop :=
  ∀ (s t : State) (nnn : Addr12), s.stack.length < 16 → s.halted = false → fetchWord s = encode (.call nnn) →
    step s = .next t → fetchWord t = encode .ret →
    ∃ u, step t = .next u ∧ u.pc = s.pc + 2 ∧ ChangesOnly (fun p => p = .pc ∨ p = .event) s u

/-- 60_exceptions.md section 8, R278 (D31; log 30): at the end of a run the machine does not stop: every step stays there and
changes no more than the event. -/
def Obligations.EndOfARunIsASelfLoop : Prop :=
  ∀ (s : State) (a : Addr12), s.halted = false → RunEndsAt a s →
    ∃ t, step s = .next t ∧ RunEndsAt a t ∧ ChangesOnly (fun p => p = .event) s t

/-! ## Index register and memory blocks (43_index_memory.md) -/

/-- 43_index_memory.md section 1, R200 and R202 ([from general knowledge], D20; logs 20 and 21): ANNN and FX1E complete in
every state and write I alone. -/
def Obligations.IndexRegisterIsSetAndAdjusted : Prop :=
  ∀ (s : State) (x : Reg) (nnn : Addr12),
    WritesIndex (.ldI nnn) s nnn.toNat ∧
    WritesIndex (.addI x) s ((s.i.toNat + (s.reg x).toNat) % 65536)

/-- 43_index_memory.md section 1, R204 ([from general knowledge], D10; logs 10 and 21): with a digit in V[x] FX29 completes and
writes I alone; otherwise the spec refuses it. -/
def Obligations.FontDigitAddressesItsGlyph : Prop :=
  ∀ (s : State) (x : Reg),
    ((s.reg x).toNat ≤ 0xF → WritesIndex (.ldF x) s (fontBase.toNat + 5 * (s.reg x).toNat)) ∧
    ((s.reg x).toNat > 0xF → exec (.ldF x) s = .refused (.fontDigitOutOfRange (encode (.ldF x))))

/-- 43_index_memory.md R204 (the effect of FX29 [from general knowledge], PRESUMED, log 21) with 70_reset_and_hazards.md R302
(its FONT_GLYPHS is a parameter, D9, log 4, as FONT_BASE is, D8, log 3): while memory is as after initialisation with an empty
image, the five bytes at I after FX29 are row 0 to row 4 of the digit's glyph, whatever the glyphs are. -/
def Obligations.GlyphBytesStandAtTheFontAddress : Prop :=
  ∀ (s t : State) (x : Reg), s.mem = State.reset.mem → exec (.ldF x) s = .next t →
    ∀ r < 5, readByte t.mem (indexAddress t r) = fontGlyphs.getD (5 * (s.reg x).toNat + r) 0

/-- 43_index_memory.md section 2, R208: FX33 completes, stores the three decimal digits at I, I + 1 and I + 2, and changes no
other byte and nothing else. -/
def Obligations.BcdStoresThreeDigits : Prop :=
  ∀ (s : State) (x : Reg), s.mem.wf →
    Completes (.ldB x) s (fun t =>
      (readByte t.mem (indexAddress s 0)).toNat = (s.reg x).toNat / 100 ∧
      (readByte t.mem (indexAddress s 1)).toNat = (s.reg x).toNat / 10 % 10 ∧
      (readByte t.mem (indexAddress s 2)).toNat = (s.reg x).toNat % 10 ∧
      ChangesOnly (StoredBytes s 3) s t)

/-- 43_index_memory.md section 2, R210 and R214 (D7; log 6): FX55 completes, stores V0..Vx inclusive from I, changes no other
byte; I moves by x + 1 exactly if LOADSTORE_ADVANCES_I; nothing else changes. The second part holds for both values of the
parameter. -/
def Obligations.BlockStoreWritesRegistersInclusive : Prop :=
  ∀ (s : State) (x : Reg), s.mem.wf →
    exec (.ldiMem x) s = .next (storeRegs Config.loadStoreAdvancesI x s) ∧
    ∀ advances : Bool,
      (∀ r ≤ x, readByte (storeRegs advances x s).mem (indexAddress s r.val) = s.reg r) ∧
      (storeRegs advances x s).i.toNat = (if advances then (s.i.toNat + x.val + 1) % 65536 else s.i.toNat) ∧
      ChangesOnly (fun p => StoredBytes s (x.val + 1) p ∨ (p = .index ∧ advances = true)) s (storeRegs advances x s)

/-- 43_index_memory.md section 2, R212 and R214 (D7; log 6): FX65 completes, loads V0..Vx inclusive from I; the registers above
x stay; memory stays; I as for FX55. -/
def Obligations.BlockLoadReadsRegistersInclusive : Prop :=
  ∀ (s : State) (x : Reg),
    exec (.ldvMem x) s = .next (loadRegs Config.loadStoreAdvancesI x s) ∧
    ∀ advances : Bool,
      (∀ r ≤ x, (loadRegs advances x s).reg r = readByte s.mem (indexAddress s r.val)) ∧
      (loadRegs advances x s).i.toNat = (if advances then (s.i.toNat + x.val + 1) % 65536 else s.i.toNat) ∧
      ChangesOnly (fun p => (∃ r ≤ x, p = .reg r) ∨ (p = .index ∧ advances = true)) s (loadRegs advances x s)

/-- 43_index_memory.md R210 and R212 together: what FX55 stored, FX65 from the same I loads back, whatever the registers hold
by then. -/
def Obligations.LoadAfterStoreGivesTheRegistersBack : Prop :=
  ∀ (s t u w : State) (x : Reg), s.mem.wf → exec (.ldiMem x) s = .next t →
    u.mem = t.mem → u.i = s.i → exec (.ldvMem x) u = .next w → ∀ r ≤ x, w.reg r = s.reg r

/-- 20_memory.md R69 [derived], 70_reset_and_hazards.md R311 [derived]: the next fetch sees what FX55 stored: if PC is at byte
k of the stored block, the word fetched is V[k] and V[k+1]. -/
def Obligations.StoredCodeIsFetchedByTheNextStep : Prop :=
  ∀ (s t : State) (x : Reg) (k : Nat) (h : k + 1 ≤ x.val), s.mem.wf → exec (.ldiMem x) s = .next t →
    busAddress t.pc.toNat = busAddress (indexAddress s k) →
    fetchWord t = wordOfBytes (s.reg ⟨k, by omega⟩) (s.reg ⟨k + 1, by omega⟩)

/-! ## Timers and keypad (44_timer_key.md, 60_exceptions.md) -/

/-- 44_timer_key.md section 1, R230, R232 and R233 (log 29): the timer moves complete in every state, each writing its one
destination. -/
def Obligations.TimerMovesWriteOneDestination : Prop :=
  ∀ (s : State) (x : Reg),
    WritesRegister (.ldvDt x) s x s.dt ∧
    Completes (.lddt x) s (fun t => t.dt = s.reg x ∧ ChangesOnly (fun p => p = .delayTimer) s t) ∧
    Completes (.ldSt x) s (fun t => t.st = s.reg x ∧ ChangesOnly (fun p => p = .soundTimer) s t)

/-- 44_timer_key.md section 2, R235 to R238 (completion: D13; log 19): with a key down FX0A completes and V[x] is the pressed
key that comes first in KEY_ORDER; with none only PC goes back by 2 and the event is WaitForKey. -/
def Obligations.KeyWaitStoresTheFirstPressedKey : Prop :=
  ∀ (s : State) (x : Reg),
    ((∃ k, s.pressed k = true) → ∃ before k after, keyOrder = before ++ k :: after ∧ s.pressed k = true ∧
      (∀ j ∈ before, s.pressed j = false) ∧ WritesRegister (.ldvKey x) s x (BitVec.ofNat 8 k.val)) ∧
    ((∀ k, s.pressed k = false) → Completes (.ldvKey x) s (fun t => t.pc = s.pc - 2 ∧ t.event = .waitForKey ∧
      ChangesOnly (fun p => p = .pc ∨ p = .event) s t))

/-- 44_timer_key.md R237 [derived]: while no key is down, any number of steps at an FX0A leave the machine where the first
one does: PC unchanged, WaitForKey, nothing else. -/
def Obligations.WaitingForAKeyRepeats : Prop :=
  ∀ (s : State) (x : Reg), s.halted = false → fetchWord s = encode (.ldvKey x) → (∀ k, s.pressed k = false) →
    ∀ n : Nat, Host.Core.run Sys2Proof.core (n + 1) s = .next (s.setEvent .waitForKey)

/-- 44_timer_key.md section 2, R236 (D12; log 5): KEY_ORDER is a permutation of the 16 keys, and the model's form of it leaves
no permutation out. -/
def Obligations.KeyOrderIsAnyPermutation : Prop :=
  keyOrder.Perm allKeys ∧ ∀ order : List Key, order.Perm allKeys → ∃ rank, keyOrderOf rank = order

/-- 44_timer_key.md section 3, R240, R242 and R243 (D11; log 11): with a key number in V[x] the key skips complete, query the
keypad and write PC alone; otherwise the spec refuses them. -/
def Obligations.KeySkipsQueryTheKeypad : Prop :=
  ∀ (s : State) (x : Reg),
    (∀ k : Key, k.val = (s.reg x).toNat →
      WritesPc (.skp x) s (if s.pressed k then s.pc + 2 else s.pc) ∧
      WritesPc (.sknp x) s (if s.pressed k then s.pc else s.pc + 2)) ∧
    ((s.reg x).toNat > 0xF →
      exec (.skp x) s = .refused (.keyIndexOutOfRange (encode (.skp x))) ∧
      exec (.sknp x) s = .refused (.keyIndexOutOfRange (encode (.sknp x))))

/-- 60_exceptions.md R270: tick counts both timers down by one, independently, floored at 0; it touches nothing else and
cannot fault on a running machine. -/
def Obligations.TickCountsBothTimersDown : Prop :=
  ∀ s : State, s.halted = false →
    ∃ t, act .tick s = .next t ∧ t.dt.toNat = s.dt.toNat - 1 ∧ t.st.toNat = s.st.toNat - 1 ∧
      ChangesOnly (fun p => p = .delayTimer ∨ p = .soundTimer) s t

/-- 60_exceptions.md section 7, R276: a refresh replaces the whole keypad and nothing else. -/
def Obligations.RefreshReplacesTheKeypad : Prop :=
  ∀ (s : State) (down : List Key), s.halted = false →
    ∃ t, act (.refresh down) s = .next t ∧ (∀ k, t.pressed k = true ↔ k ∈ down) ∧
      ChangesOnly (fun p => ∃ k, p = .key k) s t

/-! ## Whole-machine rules -/

/-- The general registers an instruction may write (10_state.md R22 [derived]). -/
def Sys2Proof.Machine.destinations (i : Instr) (r : Reg) : Prop :=
  match i with
  | .ldImm x _ => r = x
  | .addImm x _ => r = x
  | .ldReg x _ => r = x
  | .orReg x _ => r = x
  | .andReg x _ => r = x
  | .xorReg x _ => r = x
  | .rnd x _ => r = x
  | .ldvDt x => r = x
  | .ldvKey x => r = x
  | .addReg x _ => r = x ∨ r = 15
  | .sub x _ => r = x ∨ r = 15
  | .shr x _ => r = x ∨ r = 15
  | .subn x _ => r = x ∨ r = 15
  | .shl x _ => r = x ∨ r = 15
  | .drw _ _ _ => r = 15
  | .ldvMem x => r ≤ x
  | _ => False

/-- 10_state.md R22 [derived]: no step writes a general register other than its instruction's destinations. -/
def Obligations.RegistersAreWrittenOnlyAsDestinations : Prop :=
  ∀ (s t : State) (i : Instr) (r : Reg), step s = .next t → decode (fetchWord s) = .instr i → ¬ destinations i r →
    t.reg r = s.reg r

/-- 10_state.md section 1 (its table's "written by" column), R32 to R38, and 20_memory.md R59: no step changes the keypad or
halts a machine it advances; only FX33 and FX55 change memory, only 00E0 and DXYN a pixel, only 2NNN and 00EE the stack, only
FX15 DT, only FX18 ST, only ANNN, FX1E, FX29, FX55 and FX65 I. -/
def Obligations.EachPartHasItsOwnWriters : Prop :=
  ∀ (s t : State) (i : Instr), step s = .next t → decode (fetchWord s) = .instr i →
    t.keys = s.keys ∧ t.halted = false ∧
    (t.mem ≠ s.mem → ∃ x, i = .ldB x ∨ i = .ldiMem x) ∧
    (t.fb ≠ s.fb → i = .cls ∨ ∃ x y n, i = .drw x y n) ∧
    (t.stack ≠ s.stack → i = .ret ∨ ∃ nnn, i = .call nnn) ∧
    (t.dt ≠ s.dt → ∃ x, i = .lddt x) ∧
    (t.st ≠ s.st → ∃ x, i = .ldSt x) ∧
    (t.i ≠ s.i → (∃ nnn, i = .ldI nnn) ∨ ∃ x, i = .addI x ∨ i = .ldF x ∨ i = .ldiMem x ∨ i = .ldvMem x)

/-- 10_state.md R34: no instruction reads ST: two states that differ in ST alone answer alike, and still differ in ST at
most. -/
def Obligations.SoundTimerIsNeverObserved : Prop :=
  ∀ s t : State, SameButSoundTimer s t → SameOutcome SameButSoundTimer (step s) (step t)

/-- 10_state.md R28 [derived]: every observable effect of PC depends on PC mod 4096 alone: states whose PC and return addresses
agree mod 4096, and that are otherwise equal, answer alike and stay so related. -/
def Obligations.OnlyPcModulo4096Matters : Prop :=
  ∀ s t : State, SameModuloMemorySize s t → SameOutcome SameModuloMemorySize (step s) (step t)

/-! ## Runs -/

/-- The step lemma behind every run, 10_state.md R35, R42, R43 (settled states: log 9; interleaving: D21, log 22): whatever the
host does in a state that meets the invariant, a step, a tick or a refresh, fatal and refused outcomes among them, the state the
run is in afterwards meets it. -/
def Obligations.EveryActionKeepsTheInvariant : Prop :=
  ∀ (a : HostAction) (s : State), s.Inv → (settle s (act a s)).Inv

/-- 60_exceptions.md section 8, R278 (the definition of the end: D31, log 30): the end of a run for a claim is the FIRST of its
states at the named PC whose word is a JP to itself, reached with nothing fatal before; a run that stops before one ends by the
fatal condition or the refusal it stops on; any other ends when the host calls nothing more. -/
def Obligations.EndOfARunIsTheFirstSelfLoop : Prop :=
  ∀ (a : Addr12) (actions : List HostAction) (s t : State), s.halted = false →
    let after (n : Nat) : State := runActions (actions.take n) s
    (endOfRun a actions s = .selfLoop t ↔
      ∃ n ≤ actions.length, t = after n ∧ t.halted = false ∧ RunEndsAt a t ∧ ∀ m < n, ¬ RunEndsAt a (after m)) ∧
    (∀ f, endOfRun a actions s = .fatal t f ↔
      ∃ n x, actions[n]? = some x ∧ t = after n ∧ t.halted = false ∧ act x t = .fault f ∧
        ∀ m ≤ n, ¬ RunEndsAt a (after m)) ∧
    (∀ r, endOfRun a actions s = .refused t r ↔
      ∃ n x, actions[n]? = some x ∧ t = after n ∧ t.halted = false ∧ act x t = .refused r ∧
        ∀ m ≤ n, ¬ RunEndsAt a (after m)) ∧
    (endOfRun a actions s = .hostStopped t ↔
      t = after actions.length ∧ t.halted = false ∧ ∀ m ≤ actions.length, ¬ RunEndsAt a (after m))

/-! ## Assembler syntax (30_encoding.md R94) -/

/-- 30_encoding.md R94, last paragraph, with 40_alu.md R133 and R135: the y field of SHR and SHL, which an optional Vy only
fills, has no part in execution. -/
def Obligations.ShiftsIgnoreTheYField : Prop :=
  ∀ (s : State) (x y y' : Reg), exec (.shr x y) s = exec (.shr x y') s ∧ exec (.shl x y) s = exec (.shl x y') s

/-- 30_encoding.md R94 (the syntax: [from general knowledge], D28, log 31): the line of a well-formed instruction is read back
as that instruction, and SHR and SHL without Vy have y = 0. -/
def Obligations.AssemblerLinesReadBack : Prop :=
  (∀ i : Instr, i.wellFormed = true → assemble (asmLine i) = some i) ∧
  ∀ x : Reg, assemble ⟨.shr, [.v x]⟩ = some (.shr x 0) ∧ assemble ⟨.shl, [.v x]⟩ = some (.shl x 0)
end

