-- ==== Sys2Proof/Laws/Assembler.lean ====
section
/-! SUPPORT. Laws/Assembler.lean: immediates of assembler lines read back (30_encoding.md R94). -/

namespace Sys2Proof.Machine

@[simp] theorem withImm_toNat {w : Nat} (b : BitVec w) (f : BitVec w → Instr) : withImm w b.toNat f = some (f b) := by
  simp [withImm, b.isLt]

@[simp] theorem withImm_fin (n : Count) (f : BitVec 4 → Instr) : withImm 4 n.val f = some (f (BitVec.ofFin n)) :=
  withImm_toNat (BitVec.ofFin (w := 4) n) f

end Sys2Proof.Machine
end

