-- ==== Sys2Proof/Laws/Decode.lean ====
section
/-! SUPPORT. Laws/Decode.lean: the fields of a word put together from fields, and a word put together from its parts. -/

namespace Sys2Proof

/-! ## Fields of a word built from fields (30_encoding.md R81) -/

theorem class_wordNnn (c : BitVec 4) (nnn : Addr12) : (wordNnn c nnn).extractLsb' 12 4 = c := by
  simp only [wordNnn]
  ext i hi
  interval_cases i <;> simp

theorem class_wordXKk (c : BitVec 4) (x : Reg) (kk : Byte) : (wordXKk c x kk).extractLsb' 12 4 = c := by
  simp only [wordXKk]
  generalize BitVec.ofFin (w := 4) x = a
  ext i hi
  interval_cases i <;> simp

theorem class_wordXYN (c : BitVec 4) (x y : Reg) (n : BitVec 4) : (wordXYN c x y n).extractLsb' 12 4 = c := by
  simp only [wordXYN]
  generalize BitVec.ofFin (w := 4) x = a
  generalize BitVec.ofFin (w := 4) y = b
  ext i hi
  interval_cases i <;> simp

theorem fieldNnn_wordNnn (c : BitVec 4) (nnn : Addr12) : fieldNnn (wordNnn c nnn) = nnn := by
  simp only [fieldNnn, wordNnn]
  ext i hi
  interval_cases i <;> simp

theorem fieldKk_wordXKk (c : BitVec 4) (x : Reg) (kk : Byte) : fieldKk (wordXKk c x kk) = kk := by
  simp only [fieldKk, wordXKk]
  generalize BitVec.ofFin (w := 4) x = a
  ext i hi
  interval_cases i <;> simp

theorem fieldX_wordXKk (c : BitVec 4) (x : Reg) (kk : Byte) : fieldX (wordXKk c x kk) = x := by
  have h : (wordXKk c x kk).extractLsb' 8 4 = BitVec.ofFin (w := 4) x := by
    simp only [wordXKk]
    generalize BitVec.ofFin (w := 4) x = a
    ext i hi
    interval_cases i <;> simp
  simp [fieldX, h]

theorem fieldX_wordXYN (c : BitVec 4) (x y : Reg) (n : BitVec 4) : fieldX (wordXYN c x y n) = x := by
  have h : (wordXYN c x y n).extractLsb' 8 4 = BitVec.ofFin (w := 4) x := by
    simp only [wordXYN]
    generalize BitVec.ofFin (w := 4) x = a
    generalize BitVec.ofFin (w := 4) y = b
    ext i hi
    interval_cases i <;> simp
  simp [fieldX, h]

theorem fieldY_wordXYN (c : BitVec 4) (x y : Reg) (n : BitVec 4) : fieldY (wordXYN c x y n) = y := by
  have h : (wordXYN c x y n).extractLsb' 4 4 = BitVec.ofFin (w := 4) y := by
    simp only [wordXYN]
    generalize BitVec.ofFin (w := 4) x = a
    generalize BitVec.ofFin (w := 4) y = b
    ext i hi
    interval_cases i <;> simp
  simp [fieldY, h]

theorem fieldN_wordXYN (c : BitVec 4) (x y : Reg) (n : BitVec 4) : fieldN (wordXYN c x y n) = n.toFin := by
  have h : (wordXYN c x y n).extractLsb' 0 4 = n := by
    simp only [wordXYN]
    generalize BitVec.ofFin (w := 4) x = a
    generalize BitVec.ofFin (w := 4) y = b
    ext i hi
    interval_cases i <;> simp
  simp [fieldN, h]

/-! ## A word is its parts -/

/-- Every word is its class nibble and its nnn. -/
theorem eq_wordNnn (op : Word) : op = wordNnn (op.extractLsb' 12 4) (fieldNnn op) := by
  simp only [wordNnn, fieldNnn]
  ext i hi
  interval_cases i <;> simp

/-- Every word is its class nibble, x and kk. -/
theorem eq_wordXKk (op : Word) : op = wordXKk (op.extractLsb' 12 4) (fieldX op) (fieldKk op) := by
  simp only [wordXKk, fieldX, fieldKk, BitVec.ofFin_toFin]
  ext i hi
  interval_cases i <;> simp

/-- Every word is its class nibble, x, y and low nibble. -/
theorem eq_wordXYN (op : Word) :
    op = wordXYN (op.extractLsb' 12 4) (fieldX op) (fieldY op) (op.extractLsb' 0 4) := by
  simp only [wordXYN, fieldX, fieldY, BitVec.ofFin_toFin]
  ext i hi
  interval_cases i <;> simp

/-! ## Bytes of a word (20_memory.md R53, R57) -/

/-- Splitting a word into its two bytes and putting them together gives the word back. -/
theorem wordOfBytes_bytes (w : Word) : wordOfBytes (highByte w) (lowByte w) = w := by
  simp only [wordOfBytes, highByte, lowByte]
  ext i hi
  interval_cases i <;> simp

theorem highByte_wordOfBytes (hi lo : Byte) : highByte (wordOfBytes hi lo) = hi := by
  simp only [wordOfBytes, highByte]
  ext i h
  interval_cases i <;> simp

theorem lowByte_wordOfBytes (hi lo : Byte) : lowByte (wordOfBytes hi lo) = lo := by
  simp only [wordOfBytes, lowByte]
  ext i h
  interval_cases i <;> simp

/-! ## The dispatch table (30_encoding.md R84, R85) -/

/-- The patterns of two rows differ on a bit that both masks hold. -/
def rowsDiffer (q r : DispatchRow) : Bool := q.pattern &&& (q.mask &&& r.mask) != r.pattern &&& (q.mask &&& r.mask)

theorem rows_differ : dispatchTable.Pairwise (fun q r => rowsDiffer q r = true) := by decide

/-- Two rows that differ cannot both match one word. -/
theorem not_rowMatches_of_rowsDiffer {op : Word} {q r : DispatchRow} (h : rowsDiffer q r = true)
    (hr : rowMatches op r = true) : rowMatches op q = false := by
  by_contra hq
  simp only [rowMatches, Bool.not_eq_false, beq_iff_eq] at hq hr
  simp only [rowsDiffer, bne_iff_ne, ← hq, ← hr] at h
  refine h ?_
  ext i hi
  simp only [BitVec.getElem_and]
  cases op[i] <;> cases q.mask[i] <;> cases r.mask[i] <;> rfl

/-- The matcher finds a row that matches, wherever it stands in the table. -/
theorem dispatch_of_row {op : Word} {r : DispatchRow} (hm : r ∈ dispatchTable) (hr : rowMatches op r = true) :
    dispatch op = some (r.handler op) := by
  have key : ∀ l : List DispatchRow, l.Pairwise (fun q r => rowsDiffer q r = true) → r ∈ l →
      l.find? (rowMatches op) = some r := by
    intro l hl hm
    induction l with
    | nil => simp at hm
    | cons q l ih =>
      rcases List.mem_cons.mp hm with rfl | hm
      · simp [hr]
      · have := not_rowMatches_of_rowsDiffer ((List.pairwise_cons.mp hl).1 r hm) hr
        rw [List.find?_cons_of_neg (by simp [this])]
        exact ih hl.of_cons hm
  rw [dispatch, key dispatchTable rows_differ hm]
  rfl

theorem decode_of_row {op : Word} {r : DispatchRow} (hm : r ∈ dispatchTable) (hr : rowMatches op r = true) :
    decode op = .instr (r.handler op) := by
  simp only [decode, dispatch_of_row hm hr]

theorem decode_of_no_row {op : Word} (h : dispatch op = none) :
    decode op = if op.extractLsb' 12 4 = 0 then .instr (.sys (fieldNnn op)) else .unimplementedOpcode op := by
  simp only [decode, h]

/-- Masking the class nibble of a word. -/
theorem wordNnn_and_mask (c : BitVec 4) (nnn : Addr12) : wordNnn c nnn &&& 0xF000 = wordNnn c 0 := by
  simp only [wordNnn]
  ext i hi
  interval_cases i <;> simp

theorem wordXKk_and_mask (c : BitVec 4) (x : Reg) (kk : Byte) : wordXKk c x kk &&& 0xF000 = wordNnn c 0 := by
  simp only [wordXKk, wordNnn]
  generalize BitVec.ofFin (w := 4) x = a
  ext i hi
  interval_cases i <;> simp

/-- Masking class and low byte. -/
theorem wordXKk_and_mask_low (c : BitVec 4) (x : Reg) (kk : Byte) : wordXKk c x kk &&& 0xF0FF = wordXKk c 0 kk := by
  simp only [wordXKk]
  generalize BitVec.ofFin (w := 4) x = a
  ext i hi
  interval_cases i <;> simp

theorem wordXYN_and_mask (c : BitVec 4) (x y : Reg) (n : BitVec 4) : wordXYN c x y n &&& 0xF000 = wordNnn c 0 := by
  simp only [wordXYN, wordNnn]
  generalize BitVec.ofFin (w := 4) x = a
  generalize BitVec.ofFin (w := 4) y = b
  ext i hi
  interval_cases i <;> simp

/-- Masking class and low nibble. -/
theorem wordXYN_and_mask_low (c : BitVec 4) (x y : Reg) (n : BitVec 4) :
    wordXYN c x y n &&& 0xF00F = wordXYN c 0 0 n := by
  simp only [wordXYN]
  generalize BitVec.ofFin (w := 4) x = a
  generalize BitVec.ofFin (w := 4) y = b
  ext i hi
  interval_cases i <;> simp

end Sys2Proof
end

