-- ==== Sys2Proof/Laws/Display.lean ====
section
/-! SUPPORT. Laws/Display.lean: pixels after the framebuffer's operations (41_display.md R150, R152). -/

namespace Sys2Proof.Machine

@[simp] theorem Framebuffer.pixel_clear (r : Fin 32) (c : Fin 64) : Framebuffer.clear.pixel r c = false := by
  simp [Framebuffer.pixel, Framebuffer.clear]

/-- A toggle flips its own pixel and no other. -/
theorem Framebuffer.pixel_toggle (f : Framebuffer) (r r' : Fin 32) (c c' : Fin 64) :
    (f.toggle r c).pixel r' c' = if r' = r ∧ c' = c then !f.pixel r c else f.pixel r' c' := by
  simp only [Framebuffer.pixel, Framebuffer.toggle, Fin.getElem_fin, Vector.getElem_set, Fin.ext_iff]
  by_cases h1 : r.val = r'.val
  · by_cases h2 : c.val = c'.val
    · simp [h1, h2]
    · simp [h1, h2, Ne.symm h2]
  · simp [h1, Ne.symm h1]

/-- Two framebuffers with the same pixels are equal. -/
theorem Framebuffer.ext_pixel {f g : Framebuffer} (h : ∀ r c, f.pixel r c = g.pixel r c) : f = g := by
  apply Vector.ext
  intro r hr
  apply Vector.ext
  intro c hc
  exact h ⟨r, hr⟩ ⟨c, hc⟩

end Sys2Proof.Machine
end

