-- ==== Sys2Proof/Laws/Flow.lean ====
section
/-! SUPPORT. Laws/Flow.lean: one lemma for each shared operation on the flow of a step: fetching, the call stack, a step. -/

namespace Sys2Proof.Machine

/-- When fetching gives an instruction to run, and in which state (30_encoding.md R90). -/
theorem fetchDecode_run {s t : State} {i : Instr} :
    fetchDecode s = .run i t ↔ s.halted = false ∧ decode (fetchWord s) = .instr i ∧ t = beginStep s := by
  unfold fetchDecode
  cases hh : s.halted <;> cases hd : decode (fetchWord s) <;> simp [eq_comm]

/-- When fetching stops (R43, R87). -/
theorem fetchDecode_stop {s : State} {f : Fault} :
    fetchDecode s = .stop f ↔ (s.halted = true ∧ f = .halted) ∨
      (s.halted = false ∧ ∃ op, decode (fetchWord s) = .unimplementedOpcode op ∧ f = .unimplementedOpcode op) := by
  unfold fetchDecode
  cases hh : s.halted <;> cases hd : decode (fetchWord s) <;> simp [eq_comm]

/-- What a rejected word carries: itself (R87). -/
theorem decode_unimplemented {op w : Word} (h : decode op = .unimplementedOpcode w) : w = op := by
  unfold decode at h
  cases hd : dispatch op <;> simp only [hd] at h
  · split at h <;> simp_all
  · cases h

/-- A step that answers a next state ran the decoded instruction in the begun state. -/
theorem step_next {s t : State} (h : step s = .next t) :
    ∃ i, s.halted = false ∧ decode (fetchWord s) = .instr i ∧ exec i (beginStep s) = .next t := by
  unfold step at h
  cases hf : fetchDecode s with
  | stop f => simp [hf, raiseFatal] at h
  | run i u =>
    obtain ⟨h1, h2, rfl⟩ := fetchDecode_run.mp hf
    exact ⟨i, h1, h2, by simpa [hf] using h⟩

@[simp] theorem beginStep_pc (s : State) : (beginStep s).pc = s.pc + 2 := rfl
@[simp] theorem beginStep_event (s : State) : (beginStep s).event = .none := rfl
@[simp] theorem beginStep_v (s : State) : (beginStep s).v = s.v := rfl
@[simp] theorem beginStep_i (s : State) : (beginStep s).i = s.i := rfl
@[simp] theorem beginStep_dt (s : State) : (beginStep s).dt = s.dt := rfl
@[simp] theorem beginStep_st (s : State) : (beginStep s).st = s.st := rfl
@[simp] theorem beginStep_stack (s : State) : (beginStep s).stack = s.stack := rfl
@[simp] theorem beginStep_mem (s : State) : (beginStep s).mem = s.mem := rfl
@[simp] theorem beginStep_fb (s : State) : (beginStep s).fb = s.fb := rfl
@[simp] theorem beginStep_keys (s : State) : (beginStep s).keys = s.keys := rfl
@[simp] theorem beginStep_halted (s : State) : (beginStep s).halted = s.halted := rfl
@[simp] theorem beginStep_draws (s : State) : (beginStep s).draws = s.draws := rfl
@[simp] theorem reg_beginStep (s : State) (r : Reg) : (beginStep s).reg r = s.reg r := rfl

/-- Everything `pushThen` can do (42_control.md R173). -/
theorem pushThen_eq (op a : Word) (k : State → State) (s : State) :
    (s.stack.length < 16 ∧ pushThen op a k s = .next (k (s.setStack (s.stack ++ [a])))) ∨
      (16 ≤ s.stack.length ∧ pushThen op a k s = .fault (.stackOverflow op)) := by
  unfold pushThen stackDepth raiseFatal
  by_cases h : s.stack.length < 16
  · exact .inl ⟨h, if_pos h⟩
  · exact .inr ⟨by omega, if_neg h⟩

/-- Everything `popThen` can do (R173). -/
theorem popThen_eq (op : Word) (k : Word → State → State) (s : State) :
    (∃ rest a, s.stack = rest ++ [a] ∧ popThen op k s = .next (k a (s.setStack rest))) ∨
      (s.stack = [] ∧ popThen op k s = .fault (.stackUnderflow op)) := by
  rcases List.eq_nil_or_concat s.stack with h | ⟨rest, a, h⟩
  · exact .inr ⟨h, by simp [popThen, h, raiseFatal]⟩
  · exact .inl ⟨rest, a, by simpa using h, by simp [popThen, h]⟩

end Sys2Proof.Machine
end

