-- ==== Sys2Proof/Laws/Keys.lean ====
section
/-! SUPPORT. Laws/Keys.lean: the keypad: KEY_ORDER holds every key, and `any_pressed` (44_timer_key.md R236). -/

namespace Sys2Proof.Machine

theorem mem_allKeys (k : Key) : k ∈ allKeys := by revert k; decide

theorem mem_insertKey {rank : Key → Nat} {k j : Key} {l : List Key} : j ∈ insertKey rank k l ↔ j = k ∨ j ∈ l := by
  induction l with
  | nil => simp [insertKey]
  | cons h t ih => simp only [insertKey]; split <;> simp [ih]; tauto

/-- Every key stands in the order of any places. -/
theorem mem_keyOrderOf (rank : Key → Nat) (k : Key) : k ∈ keyOrderOf rank := by
  have key : ∀ l : List Key, k ∈ l → k ∈ l.foldr (insertKey rank) [] := by
    intro l hl
    induction l with
    | nil => simp at hl
    | cons h t ih =>
      rw [List.foldr_cons, mem_insertKey]
      rcases List.mem_cons.mp hl with rfl | hl
      · exact .inl rfl
      · exact .inr (ih hl)
  exact key allKeys (mem_allKeys k)

theorem mem_keyOrder (k : Key) : k ∈ keyOrder := by
  unfold keyOrder
  exact mem_keyOrderOf _ k

/-- The test for any key at all only makes `any_pressed` quick: it is the first pressed key of KEY_ORDER. -/
theorem anyPressed_eq (s : State) : anyPressed s = firstPressed keyOrder s := by
  unfold anyPressed
  split
  · rfl
  · rename_i h
    refine (List.find?_eq_none.mpr fun k _ hk => h ?_).symm
    exact List.any_eq_true.mpr ⟨k, mem_allKeys k, hk⟩

/-- `any_pressed` is none exactly when no key is pressed (R236). -/
theorem anyPressed_none {s : State} : anyPressed s = none ↔ ∀ k, s.pressed k = false := by
  rw [anyPressed_eq, firstPressed, List.find?_eq_none]
  exact ⟨fun h k => by simpa using h k (mem_keyOrder k), fun h k _ => by simp [h k]⟩

theorem anyPressed_pressed {s : State} {k : Key} (h : anyPressed s = some k) : s.pressed k = true := by
  rw [anyPressed_eq] at h
  exact List.find?_some h

/-- A key is pressed after a refresh exactly if the refresh names it (60_exceptions.md R276). -/
theorem pressed_refresh (s : State) (down : List Key) (k : Key) : (s.refresh down).pressed k = decide (k ∈ down) := by
  simp [State.pressed, State.refresh]

/-- The countdown is natural subtraction, floored at 0 (60_exceptions.md R270). -/
theorem countDown_toNat (b : Byte) : (countDown b).toNat = b.toNat - 1 := by
  unfold countDown
  split <;> bv_omega

/-- A byte is a digit exactly if it is at most 0xF. -/
theorem hexDigit_of_lt {b : Byte} (h : b.toNat < 16) : hexDigit b = some ⟨b.toNat, h⟩ := dif_pos h

theorem hexDigit_of_ge {b : Byte} (h : 16 ≤ b.toNat) : hexDigit b = none := dif_neg (by omega)

/-! ## Fields that tick and refresh leave alone -/

@[simp] theorem State.tick_v (s : State) : s.tick.v = s.v := rfl
@[simp] theorem State.tick_pc (s : State) : s.tick.pc = s.pc := rfl
@[simp] theorem State.tick_i (s : State) : s.tick.i = s.i := rfl
@[simp] theorem State.tick_stack (s : State) : s.tick.stack = s.stack := rfl
@[simp] theorem State.tick_mem (s : State) : s.tick.mem = s.mem := rfl
@[simp] theorem State.tick_fb (s : State) : s.tick.fb = s.fb := rfl
@[simp] theorem State.tick_keys (s : State) : s.tick.keys = s.keys := rfl
@[simp] theorem State.tick_halted (s : State) : s.tick.halted = s.halted := rfl
@[simp] theorem State.tick_event (s : State) : s.tick.event = s.event := rfl
@[simp] theorem State.tick_draws (s : State) : s.tick.draws = s.draws := rfl

@[simp] theorem State.refresh_v (s : State) (down : List Key) : (s.refresh down).v = s.v := rfl
@[simp] theorem State.refresh_pc (s : State) (down : List Key) : (s.refresh down).pc = s.pc := rfl
@[simp] theorem State.refresh_i (s : State) (down : List Key) : (s.refresh down).i = s.i := rfl
@[simp] theorem State.refresh_dt (s : State) (down : List Key) : (s.refresh down).dt = s.dt := rfl
@[simp] theorem State.refresh_st (s : State) (down : List Key) : (s.refresh down).st = s.st := rfl
@[simp] theorem State.refresh_stack (s : State) (down : List Key) : (s.refresh down).stack = s.stack := rfl
@[simp] theorem State.refresh_mem (s : State) (down : List Key) : (s.refresh down).mem = s.mem := rfl
@[simp] theorem State.refresh_fb (s : State) (down : List Key) : (s.refresh down).fb = s.fb := rfl
@[simp] theorem State.refresh_halted (s : State) (down : List Key) : (s.refresh down).halted = s.halted := rfl
@[simp] theorem State.refresh_event (s : State) (down : List Key) : (s.refresh down).event = s.event := rfl
@[simp] theorem State.refresh_draws (s : State) (down : List Key) : (s.refresh down).draws = s.draws := rfl

end Sys2Proof.Machine
end

