-- ==== Sys2Proof/Laws/Memory.lean ====
section
/-! SUPPORT. Laws/Memory.lean: the laws of the canonical memory and of the bus over it: read after write, and every operation
keeps the canonical form. -/

namespace Sys2Proof.Machine

/-! ## The canonical form -/

theorem Memory.wf_nil : Memory.wf [] := by simp [Memory.wf]

theorem Memory.wf_tail {c : Host.Cell} {m : Memory} (h : Memory.wf (c :: m)) : Memory.wf m :=
  ⟨h.1.of_cons, fun d hd => h.2 d (List.mem_cons_of_mem _ hd)⟩

/-- The first key is the lowest. -/
theorem Memory.head_lt {d e : Host.Cell} {m : Memory} (h : Memory.wf (d :: m)) (he : e ∈ m) : d.1 < e.1 :=
  (List.pairwise_cons.mp h.1).1 e he

/-- A key below every listed key is not listed. -/
theorem Memory.get_of_lt (m : Memory) (a : Nat) (h : ∀ c ∈ m, a < c.1) : m.get a = initialByte a := by
  induction m with
  | nil => rfl
  | cons c rest ih =>
    have hc := h c (by simp)
    simp only [Memory.get]
    rw [if_neg (by omega)]
    exact ih fun d hd => h d (List.mem_cons_of_mem _ hd)

/-- A cell of the new memory is the written one or an old one. -/
theorem Memory.mem_put {m : Memory} {a : Nat} {b : Byte} {c : Host.Cell} (h : c ∈ m.put a b) :
    (c = (a, b) ∧ b ≠ initialByte a) ∨ c ∈ m := by
  induction m with
  | nil => simp only [Memory.put] at h; split at h <;> simp_all
  | cons d rest ih =>
    simp only [Memory.put] at h
    split_ifs at h <;> simp only [List.mem_cons] at h ⊢ <;> tauto

/-- Writing a byte keeps the canonical form. -/
theorem Memory.wf_put {m : Memory} (h : m.wf) {a : Nat} (ha : a < 4096) (b : Byte) : (m.put a b).wf := by
  refine ⟨?_, fun c hc => ?_⟩
  · induction m with
    | nil => simp only [Memory.put]; split <;> simp
    | cons d rest ih =>
      have hd : ∀ e ∈ rest, d.1 < e.1 := fun e he => Memory.head_lt h he
      simp only [Memory.put]
      split_ifs with h1 h2 h3 h4
      · exact h.1
      · refine List.pairwise_cons.mpr ⟨fun c hc => ?_, h.1⟩
        rcases List.mem_cons.mp hc with rfl | hc
        · exact h1
        · exact h1.trans (hd c hc)
      · exact h.1.of_cons
      · exact List.pairwise_cons.mpr ⟨fun c hc => h3 ▸ hd c hc, h.1.of_cons⟩
      · refine List.pairwise_cons.mpr ⟨fun c hc => ?_, ih (Memory.wf_tail h)⟩
        rcases Memory.mem_put hc with ⟨rfl, -⟩ | hc
        · show d.1 < a
          omega
        · exact hd c hc
  · rcases Memory.mem_put hc with ⟨rfl, hb⟩ | hc
    · exact ⟨ha, hb⟩
    · exact h.2 c hc

/-- Reading key `a'` after writing `b` at key `a`. -/
theorem Memory.get_put {m : Memory} (h : m.wf) (a a' : Nat) (b : Byte) :
    (m.put a b).get a' = if a' = a then b else m.get a' := by
  induction m with
  | nil =>
    simp only [Memory.put]
    split_ifs with h1 h2 h2 <;> simp_all [Memory.get, eq_comm]
  | cons d rest ih =>
    obtain ⟨k, c⟩ := d
    have hd : ∀ e ∈ rest, k < e.1 := fun e he => Memory.head_lt h he
    have ih := ih (Memory.wf_tail h)
    have hrest : Memory.get rest k = initialByte k := Memory.get_of_lt rest k hd
    simp only [Memory.put]
    by_cases h1 : a < k
    · have hout : Memory.get ((k, c) :: rest) a = initialByte a :=
        Memory.get_of_lt _ a fun e he => by
          rcases List.mem_cons.mp he with rfl | he
          · exact h1
          · exact h1.trans (hd e he)
      rw [if_pos h1]
      by_cases h2 : b = initialByte a
      · rw [if_pos h2]
        split_ifs with h3
        · rw [h3, hout, h2]
        · rfl
      · rw [if_neg h2]
        simp only [Memory.get, eq_comm]
    · rw [if_neg h1]
      by_cases h2 : a = k
      · subst h2
        rw [if_pos rfl]
        by_cases h3 : a' = a
        · subst h3
          rw [if_pos rfl]
          by_cases h4 : b = initialByte a'
          · rw [if_pos h4, hrest, h4]
          · simp [Memory.get, h4]
        · rw [if_neg h3]
          split_ifs <;> simp [Memory.get, Ne.symm h3]
      · rw [if_neg h2]
        simp only [Memory.get, ih]
        split_ifs with h3 h4 <;> first | rfl | omega

/-! ## The bus -/

theorem busAddress_lt (a : Nat) : busAddress a < 4096 := Nat.mod_lt _ (by decide)

/-- Every address is reduced modulo 4096 before use (20_memory.md R51). -/
theorem readByte_mod (m : Memory) (a : Nat) : readByte m (a % 4096) = readByte m a := by
  simp [readByte, busAddress]

theorem readByte_congr (m : Memory) {a b : Nat} (h : a % 4096 = b % 4096) : readByte m a = readByte m b := by
  simp only [readByte, busAddress, h]

theorem wf_writeByte {m : Memory} (h : m.wf) (a : Nat) (b : Byte) : (writeByte m a b).wf :=
  Memory.wf_put h (busAddress_lt a) b

theorem wf_writeBytes {m : Memory} (h : m.wf) (a : Nat) (bs : List Byte) : (writeBytes m a bs).wf := by
  induction bs generalizing m a with
  | nil => exact h
  | cons b rest ih => exact ih (wf_writeByte h a b) (a + 1)

/-- A byte outside the written addresses (modulo 4096) reads as before. -/
theorem readByte_writeBytes_outside {m : Memory} (h : m.wf) (a a' : Nat) (bs : List Byte)
    (hout : ∀ k < bs.length, a' % 4096 ≠ (a + k) % 4096) : readByte (writeBytes m a bs) a' = readByte m a' := by
  induction bs generalizing m a with
  | nil => rfl
  | cons b rest ih =>
    rw [writeBytes, ih (wf_writeByte h a b) (a + 1) fun k hk => ?_]
    · have := hout 0 (by simp)
      simp only [readByte, writeByte, busAddress, Memory.get_put h]
      exact if_neg this
    · have := hout (k + 1) (by simpa using hk)
      rwa [Nat.add_assoc, Nat.add_comm 1 k]

/-- Byte k of a multi-byte store of at most 4096 bytes is what its address reads afterwards. -/
theorem readByte_writeBytes_inside {m : Memory} (h : m.wf) (a : Nat) (bs : List Byte) (hlen : bs.length ≤ 4096)
    (k : Nat) (hk : k < bs.length) : readByte (writeBytes m a bs) (a + k) = bs[k] := by
  induction bs generalizing m a k with
  | nil => simp at hk
  | cons b rest ih =>
    simp only [List.length_cons] at hlen hk
    rw [writeBytes]
    cases k with
    | zero =>
      rw [readByte_writeBytes_outside (wf_writeByte h a b) (a + 1) (a + 0) rest fun j hj => by omega]
      simp [readByte, writeByte, Memory.get_put h]
    | succ k =>
      have := ih (wf_writeByte h a b) (a + 1) (by omega) k (by omega)
      rw [Nat.add_assoc, Nat.add_comm 1 k] at this
      simpa using this

end Sys2Proof.Machine
end

