-- ==== Sys2Proof/Laws/PerInstr.lean ====
section
/-! SUPPORT. Laws/PerInstr.lean: the family EncodeClass: the top nibble of each instruction's word (30_encoding.md R83). -/

namespace Sys2Proof.Laws

/-- The class of an instruction, op[15:12] (R80, R83). -/
def EncodeClass.opcodeClass (i : Instr) : BitVec 4 :=
  match i with
  | .cls => 0x0
  | .ret => 0x0
  | .jp _ => 0x1
  | .call _ => 0x2
  | .seImm _ _ => 0x3
  | .sneImm _ _ => 0x4
  | .seReg _ _ => 0x5
  | .ldImm _ _ => 0x6
  | .addImm _ _ => 0x7
  | .ldReg _ _ => 0x8
  | .orReg _ _ => 0x8
  | .andReg _ _ => 0x8
  | .xorReg _ _ => 0x8
  | .addReg _ _ => 0x8
  | .sub _ _ => 0x8
  | .shr _ _ => 0x8
  | .subn _ _ => 0x8
  | .shl _ _ => 0x8
  | .sneReg _ _ => 0x9
  | .ldI _ => 0xA
  | .jpV0 _ => 0xB
  | .rnd _ _ => 0xC
  | .drw _ _ _ => 0xD
  | .skp _ => 0xE
  | .sknp _ => 0xE
  | .ldvDt _ => 0xF
  | .ldvKey _ => 0xF
  | .lddt _ => 0xF
  | .ldSt _ => 0xF
  | .addI _ => 0xF
  | .ldF _ => 0xF
  | .ldB _ => 0xF
  | .ldiMem _ => 0xF
  | .ldvMem _ => 0xF
  | .sys _ => 0x0

/-- The word of an instruction has the instruction's class in its top nibble. -/
def EncodeClass.Statement (i : Instr) : Prop := (encode i).extractLsb' 12 4 = EncodeClass.opcodeClass i

theorem EncodeClass.cls : EncodeClass.Statement (.cls) := rfl
theorem EncodeClass.ret : EncodeClass.Statement (.ret) := rfl
theorem EncodeClass.jp (nnn : Addr12) : EncodeClass.Statement (.jp nnn) := class_wordNnn _ _
theorem EncodeClass.call (nnn : Addr12) : EncodeClass.Statement (.call nnn) := class_wordNnn _ _
theorem EncodeClass.seImm (x : Reg) (kk : Byte) : EncodeClass.Statement (.seImm x kk) := class_wordXKk _ _ _
theorem EncodeClass.sneImm (x : Reg) (kk : Byte) : EncodeClass.Statement (.sneImm x kk) := class_wordXKk _ _ _
theorem EncodeClass.seReg (x : Reg) (y : Reg) : EncodeClass.Statement (.seReg x y) := class_wordXYN _ _ _ _
theorem EncodeClass.ldImm (x : Reg) (kk : Byte) : EncodeClass.Statement (.ldImm x kk) := class_wordXKk _ _ _
theorem EncodeClass.addImm (x : Reg) (kk : Byte) : EncodeClass.Statement (.addImm x kk) := class_wordXKk _ _ _
theorem EncodeClass.ldReg (x : Reg) (y : Reg) : EncodeClass.Statement (.ldReg x y) := class_wordXYN _ _ _ _
theorem EncodeClass.orReg (x : Reg) (y : Reg) : EncodeClass.Statement (.orReg x y) := class_wordXYN _ _ _ _
theorem EncodeClass.andReg (x : Reg) (y : Reg) : EncodeClass.Statement (.andReg x y) := class_wordXYN _ _ _ _
theorem EncodeClass.xorReg (x : Reg) (y : Reg) : EncodeClass.Statement (.xorReg x y) := class_wordXYN _ _ _ _
theorem EncodeClass.addReg (x : Reg) (y : Reg) : EncodeClass.Statement (.addReg x y) := class_wordXYN _ _ _ _
theorem EncodeClass.sub (x : Reg) (y : Reg) : EncodeClass.Statement (.sub x y) := class_wordXYN _ _ _ _
theorem EncodeClass.shr (x : Reg) (y : Reg) : EncodeClass.Statement (.shr x y) := class_wordXYN _ _ _ _
theorem EncodeClass.subn (x : Reg) (y : Reg) : EncodeClass.Statement (.subn x y) := class_wordXYN _ _ _ _
theorem EncodeClass.shl (x : Reg) (y : Reg) : EncodeClass.Statement (.shl x y) := class_wordXYN _ _ _ _
theorem EncodeClass.sneReg (x : Reg) (y : Reg) : EncodeClass.Statement (.sneReg x y) := class_wordXYN _ _ _ _
theorem EncodeClass.ldI (nnn : Addr12) : EncodeClass.Statement (.ldI nnn) := class_wordNnn _ _
theorem EncodeClass.jpV0 (nnn : Addr12) : EncodeClass.Statement (.jpV0 nnn) := class_wordNnn _ _
theorem EncodeClass.rnd (x : Reg) (kk : Byte) : EncodeClass.Statement (.rnd x kk) := class_wordXKk _ _ _
theorem EncodeClass.drw (x : Reg) (y : Reg) (n : Count) : EncodeClass.Statement (.drw x y n) := class_wordXYN _ _ _ _
theorem EncodeClass.skp (x : Reg) : EncodeClass.Statement (.skp x) := class_wordXKk _ _ _
theorem EncodeClass.sknp (x : Reg) : EncodeClass.Statement (.sknp x) := class_wordXKk _ _ _
theorem EncodeClass.ldvDt (x : Reg) : EncodeClass.Statement (.ldvDt x) := class_wordXKk _ _ _
theorem EncodeClass.ldvKey (x : Reg) : EncodeClass.Statement (.ldvKey x) := class_wordXKk _ _ _
theorem EncodeClass.lddt (x : Reg) : EncodeClass.Statement (.lddt x) := class_wordXKk _ _ _
theorem EncodeClass.ldSt (x : Reg) : EncodeClass.Statement (.ldSt x) := class_wordXKk _ _ _
theorem EncodeClass.addI (x : Reg) : EncodeClass.Statement (.addI x) := class_wordXKk _ _ _
theorem EncodeClass.ldF (x : Reg) : EncodeClass.Statement (.ldF x) := class_wordXKk _ _ _
theorem EncodeClass.ldB (x : Reg) : EncodeClass.Statement (.ldB x) := class_wordXKk _ _ _
theorem EncodeClass.ldiMem (x : Reg) : EncodeClass.Statement (.ldiMem x) := class_wordXKk _ _ _
theorem EncodeClass.ldvMem (x : Reg) : EncodeClass.Statement (.ldvMem x) := class_wordXKk _ _ _
theorem EncodeClass.sys (nnn : Addr12) : EncodeClass.Statement (.sys nnn) := class_wordNnn _ _

end Sys2Proof.Laws
end

