-- ==== Sys2Proof/Laws/Runs.lean ====
section
/-! SUPPORT. Laws/Runs.lean: one lemma for each operation on runs: what an action can answer, where an outcome settles, what a
list of actions does first, and the equations of the end of a run. -/

namespace Sys2Proof.Machine

@[simp] theorem settle_next (s t : State) : settle s (.next t) = t := rfl
@[simp] theorem settle_fault (s : State) (f : Fault) : settle s (.fault f) = s.setHalted true := rfl
@[simp] theorem settle_refused (s : State) (r : Refusal) : settle s (.refused r) = s.setHalted true := rfl

@[simp] theorem runActions_nil (s : State) : runActions [] s = s := rfl
@[simp] theorem runActions_cons (a : HostAction) (l : List HostAction) (s : State) :
    runActions (a :: l) s = runActions l (settle s (act a s)) := rfl

/-- A halted machine takes no action (10_state.md R43; logs 9 and 25). -/
theorem act_halted {s : State} (h : s.halted = true) (a : HostAction) : act a s = .fault .halted := by
  cases a <;> simp [act, whenRunning, step, fetchDecode, raiseFatal, h]

/-- An action that answers a next state is a step that does, or a tick or a refresh of a running machine. -/
theorem act_next {a : HostAction} {s t : State} (h : act a s = .next t) :
    (a = .step ∧ step s = .next t) ∨ (a = .tick ∧ s.halted = false ∧ t = s.tick) ∨
      (∃ down, a = .refresh down ∧ s.halted = false ∧ t = s.refresh down) := by
  cases a with
  | step => exact .inl ⟨rfl, h⟩
  | tick => cases hh : s.halted <;> simp_all [act, whenRunning, raiseFatal]
  | refresh down => cases hh : s.halted <;> simp_all [act, whenRunning, raiseFatal]

/-- A halted machine stays as it is through any actions. -/
theorem runActions_halted {s : State} (h : s.halted = true) (l : List HostAction) : runActions l s = s := by
  have hs : s.setHalted true = s := by rw [← h]; rfl
  induction l with
  | nil => rfl
  | cons a l ih => rw [runActions_cons, act_halted h, settle_fault, hs, ih]

/-- The end of a run that is already at its self-loop. -/
theorem endOfRun_here {a : Addr12} {s : State} (h : RunEndsAt a s) (l : List HostAction) :
    endOfRun a l s = .selfLoop s := by
  cases l <;> exact if_pos h

theorem endOfRun_nil {a : Addr12} {s : State} (h : ¬ RunEndsAt a s) : endOfRun a [] s = .hostStopped s :=
  if_neg h

/-- The end of a run that is not yet there: by its first action's outcome. -/
theorem endOfRun_cons {a : Addr12} {s : State} (h : ¬ RunEndsAt a s) (x : HostAction) (l : List HostAction) :
    endOfRun a (x :: l) s = match act x s with
      | .next t => endOfRun a l t
      | .fault f => .fatal s f
      | .refused r => .refused s r :=
  if_neg h

end Sys2Proof.Machine
end

