-- ==== Sys2Proof/Tests/Slice0.lean ====
section
/-! SUPPORT. Tests/Slice0.lean: tests whose expected values come from the encodings of 30_encoding.md R84 and the vectors of
95_test_vectors.md (named in each docstring), and a witness for the hypotheses of every statement that has some. -/

open Sys2Proof Sys2Proof.Machine

namespace Sys2Proof.Tests

/-! ## Helpers -/

/-- The default pre-state with the word `op` at PC (95_test_vectors.md section 0). -/
def running (op : Word) : State := State.reset.withFetchWord 16 op.toNat

/-- Bytes placed from `a` on. -/
def poke (s : State) (a : Nat) (bs : List Byte) : State := s.setMem (writeBytes s.mem a bs)

/-- The keys of the list down, the others up. -/
def keysDown (s : State) (down : List Key) : State := s.refresh down

/-- The step answers a next state of which `f` holds. -/
def stepsTo (s : State) (f : State → Bool) : Bool :=
  match step s with
  | .next t => f t
  | .fault _ => false
  | .refused _ => false

theorem exists_of_stepsTo {s : State} {f : State → Bool} (h : stepsTo s f = true) : ∃ t, step s = .next t ∧ f t = true := by
  unfold stepsTo at h
  cases hs : step s <;> simp_all

/-- The step answers the fault. -/
def stopsWith (s : State) (f : Fault) : Bool :=
  match step s with
  | .next _ => false
  | .fault g => g == f
  | .refused _ => false

/-- The step answers the refusal. -/
def refusedWith (s : State) (r : Refusal) : Bool :=
  match step s with
  | .next _ => false
  | .fault _ => false
  | .refused q => q == r

theorem step_of_stopsWith {s : State} {f : Fault} (h : stopsWith s f = true) : step s = .fault f := by
  unfold stopsWith at h
  cases hs : step s <;> simp_all

/-- The pixels of a list, in its order. -/
def pixels (s : State) (at_ : List (Fin 32 × Fin 64)) : List Bool := at_.map (fun p => s.fb.pixel p.1 p.2)

/-- A picture with the given pixels on. -/
def picture (on : List (Fin 32 × Fin 64)) : Framebuffer := on.foldl (fun f p => f.toggle p.1 p.2) Framebuffer.clear

/-! ## WellFormed: the one check refuses its ill-formed terms (R171) -/

theorem test_wellFormed_sys_refuses_cls_word : (Instr.sys 0x0E0).wellFormed = false := by decide
theorem test_wellFormed_sys_refuses_ret_word : (Instr.sys 0x0EE).wellFormed = false := by decide
theorem test_wellFormed_sys_accepts : (Instr.sys 0x0E1).wellFormed = true := by decide

/-! ## Decoding: words written out from R84 (x = 0xA, y = 0xB, kk = 0x42, nnn = 0xABC, n = 0xF), every constructor -/

theorem test_decode_control :
    [0b0000000011101110, 0b0001101010111100, 0b0010101010111100, 0b1011101010111100, 0b0011101001000010,
      0b0100101001000010, 0b0101101010110000, 0b1001101010110000, 0b0000000100100011].map (fun op => decode op) =
    [.ret, .jp 0xABC, .call 0xABC, .jpV0 0xABC, .seImm 10 0x42, .sneImm 10 0x42, .seReg 10 11, .sneReg 10 11,
      .sys 0x123].map Decoded.instr := by decide

theorem test_decode_alu :
    [0b0110101001000010, 0b0111101001000010, 0b1000101010110000, 0b1000101010110001, 0b1000101010110010,
      0b1000101010110011, 0b1000101010110100, 0b1000101010110101, 0b1000101010110110, 0b1000101010110111,
      0b1000101010111110, 0b1100101001000010].map (fun op => decode op) =
    [.ldImm 10 0x42, .addImm 10 0x42, .ldReg 10 11, .orReg 10 11, .andReg 10 11, .xorReg 10 11, .addReg 10 11, .sub 10 11,
      .shr 10 11, .subn 10 11, .shl 10 11, .rnd 10 0x42].map Decoded.instr := by decide

theorem test_decode_display :
    [0b0000000011100000, 0b1101101010111111].map (fun op => decode op) =
    [.cls, .drw 10 11 15].map Decoded.instr := by decide

theorem test_decode_index :
    [0b1010101010111100, 0b1111101000011110, 0b1111101000101001, 0b1111101000110011, 0b1111101001010101,
      0b1111101001100101].map (fun op => decode op) =
    [.ldI 0xABC, .addI 10, .ldF 10, .ldB 10, .ldiMem 10, .ldvMem 10].map Decoded.instr := by decide

theorem test_decode_timer_key :
    [0b1111101000000111, 0b1111101000010101, 0b1111101000011000, 0b1111101000001010, 0b1110101010011110,
      0b1110101010100001].map (fun op => decode op) =
    [.ldvDt 10, .lddt 10, .ldSt 10, .ldvKey 10, .skp 10, .sknp 10].map Decoded.instr := by decide

/-- FET-2 to FET-7: words no entry matches. -/
theorem test_decode_rejects_by_name :
    [0x5AB1, 0x8AB8, 0x9AB1, 0xE19F, 0xF100, 0xFFFF].map (fun op => decode op) =
    [0x5AB1, 0x8AB8, 0x9AB1, 0xE19F, 0xF100, 0xFFFF].map Decoded.unimplementedOpcode := by decide

/-- The bytes of a table word, high byte first (R57). -/
theorem test_decodeTableWord : decodeTableWord 16 0x8AB4 = some (.addReg 10 11) := by decide

/-- Lines of the vectors L1-5, L1-14, MEM-12, ALU-2 and L1-3, MEM-3, DSP-6, and their words; a line that no row has. -/
theorem test_assemble :
    ([⟨.shr, [.v 1]⟩, ⟨.jp, [.v 0, .imm 0xFFF]⟩, ⟨.ld, [.atIndex, .v 3]⟩, ⟨.add, [.v 10, .imm 0xFF]⟩, ⟨.add, [.v 1, .v 2]⟩,
      ⟨.add, [.index, .v 1]⟩, ⟨.drw, [.v 0, .v 1, .imm 2]⟩, ⟨.jp, [.v 1, .imm 0xFFF]⟩] : List AsmLine).map
        (fun line => (assemble line).map (fun i => encode i)) =
    [some 0x8106, some 0xBFFF, some 0xF355, some 0x7AFF, some 0x8124, some 0xF11E, some 0xD012, none] := by decide

/-! ## One step of each instruction -/

/-- DSP-1. -/
theorem test_cls : stepsTo (((running 0x00E0).setFb (picture [(5, 5), (31, 63)])).setReg 15 1)
    (fun t => pixels t [(5, 5), (31, 63), (0, 0)] == [false, false, false] && t.reg 15 == 1 && t.event == .none) = true := by decide

/-- CTL-5. -/
theorem test_ret : stepsTo ((running 0x00EE).setStack [0x202, 0x302])
    (fun t => t.stack == [0x202] && t.pc == 0x302) = true := by decide

/-- CTL-6. -/
theorem test_ret_underflow : stopsWith (running 0x00EE) (.stackUnderflow 0x00EE) = true := by decide

/-- CTL-2. -/
theorem test_jp_odd : stepsTo (running 0x1201) (fun t => t.pc == 0x201) = true := by decide

/-- CTL-3. -/
theorem test_call : stepsTo (((State.reset.setPc 0x300).setStack [0x202]).withFetchWord 16 0x2ABC)
    (fun t => t.stack == [0x202, 0x302] && t.pc == 0xABC) = true := by decide

/-- CTL-4. -/
theorem test_call_overflow : stopsWith ((running 0x2ABC).setStack (List.replicate 16 0x202)) (.stackOverflow 0x2ABC) = true := by decide

/-- CTL-9, CTL-10. -/
theorem test_seImm_taken : stepsTo ((running 0x3A42).setReg 10 0x42) (fun t => t.pc == 0x204) = true := by decide
theorem test_seImm_not_taken : stepsTo ((running 0x3A43).setReg 10 0x42) (fun t => t.pc == 0x202) = true := by decide

/-- CTL-11, CTL-12. -/
theorem test_sneImm_not_taken : stepsTo ((running 0x4A42).setReg 10 0x42) (fun t => t.pc == 0x202) = true := by decide
theorem test_sneImm_taken : stepsTo ((running 0x4A43).setReg 10 0x42) (fun t => t.pc == 0x204) = true := by decide

/-- CTL-13, CTL-14. -/
theorem test_seReg_taken : stepsTo (((running 0x5AB0).setReg 10 3).setReg 11 3) (fun t => t.pc == 0x204) = true := by decide
theorem test_seReg_not_taken : stepsTo (((running 0x5AB0).setReg 10 3).setReg 11 4) (fun t => t.pc == 0x202) = true := by
  decide

/-- CTL-15, CTL-16. -/
theorem test_sneReg_not_taken : stepsTo (((running 0x9AB0).setReg 10 3).setReg 11 3) (fun t => t.pc == 0x202) = true := by
  decide
theorem test_sneReg_taken : stepsTo (((running 0x9AB0).setReg 10 3).setReg 11 4) (fun t => t.pc == 0x204) = true := by decide

/-- CTL-17: both increments wrap modulo 2^16. -/
theorem test_skip_wraps : stepsTo ((State.reset.setPc 0xFFFE).withFetchWord 16 0x3000) (fun t => t.pc == 0x0002) = true := by
  decide

/-- ALU-1. -/
theorem test_ldImm : stepsTo (running 0x6A42) (fun t => t.reg 10 == 0x42) = true := by decide

/-- ALU-2, ALU-3. -/
theorem test_addImm_no_flag : stepsTo (((running 0x7AFF).setReg 10 1).setReg 15 5)
    (fun t => t.reg 10 == 0 && t.reg 15 == 5) = true := by decide
theorem test_addImm_into_vf : stepsTo ((running 0x7FFF).setReg 15 1) (fun t => t.reg 15 == 0) = true := by decide

/-- ALU-4. -/
theorem test_ldReg : stepsTo (((running 0x8120).setReg 1 0x11).setReg 2 0x22)
    (fun t => t.reg 1 == 0x22 && t.reg 2 == 0x22) = true := by decide

/-- ALU-5. -/
theorem test_orReg : stepsTo ((((running 0x8121).setReg 1 0xF0).setReg 2 0x0F).setReg 15 5)
    (fun t => t.reg 1 == 0xFF && t.reg 15 == 5) = true := by decide

/-- ALU-6. -/
theorem test_andReg : stepsTo (((running 0x8122).setReg 1 0xF0).setReg 2 0x3C) (fun t => t.reg 1 == 0x30) = true := by decide

/-- ALU-7. -/
theorem test_xorReg : stepsTo (((running 0x8123).setReg 1 0xFF).setReg 2 0x0F) (fun t => t.reg 1 == 0xF0) = true := by decide

/-- ALU-12, ALU-13. -/
theorem test_addReg_flag_wins : stepsTo (((running 0x8F14).setReg 15 0xFF).setReg 1 1) (fun t => t.reg 15 == 1) = true := by
  decide
theorem test_addReg_reads_vf : stepsTo (((running 0x81F4).setReg 1 0x10).setReg 15 0xF5)
    (fun t => t.reg 1 == 0x05 && t.reg 15 == 1) = true := by decide

/-- L1-4 (borrow), ALU-14 (equal). -/
theorem test_sub_borrow : stepsTo (((running 0x8125).setReg 1 3).setReg 2 5)
    (fun t => t.reg 1 == 0xFE && t.reg 15 == 0) = true := by decide
theorem test_sub_equal : stepsTo (((running 0x8125).setReg 1 5).setReg 2 5)
    (fun t => t.reg 1 == 0 && t.reg 15 == 1) = true := by decide

/-- ALU-18, ALU-20. -/
theorem test_shr_ignores_y : stepsTo (((running 0x8126).setReg 1 0x80).setReg 2 3)
    (fun t => t.reg 1 == 0x40 && t.reg 15 == 0 && t.reg 2 == 3) = true := by decide
theorem test_shr_flag_wins : stepsTo ((running 0x8FF6).setReg 15 3) (fun t => t.reg 15 == 1) = true := by decide

/-- ALU-21, ALU-22. -/
theorem test_subn : stepsTo (((running 0x8127).setReg 1 3).setReg 2 5)
    (fun t => t.reg 1 == 2 && t.reg 15 == 1) = true := by decide
theorem test_subn_borrow : stepsTo (((running 0x8127).setReg 1 5).setReg 2 3)
    (fun t => t.reg 1 == 0xFE && t.reg 15 == 0) = true := by decide

/-- ALU-24, ALU-25. -/
theorem test_shl : stepsTo ((running 0x812E).setReg 1 0x40) (fun t => t.reg 1 == 0x80 && t.reg 15 == 0) = true := by decide
theorem test_shl_carry : stepsTo ((running 0x812E).setReg 1 0xFF) (fun t => t.reg 1 == 0xFE && t.reg 15 == 1) = true := by
  decide

/-- ALU-27, with the draw given. -/
theorem test_rnd_masks : (rndWith 0xAB 1 0x0F State.reset).reg 1 = 0x0B := by decide

/-- DSP-6: rows and columns wrap, start coordinates too. -/
theorem test_drw_wraps : stepsTo ((((poke (running 0xD012) 0x300 [0xC0, 0x01]).setI 0x300).setReg 0 0xC8).setReg 1 0x3F)
    (fun t => pixels t [(31, 7), (31, 8), (31, 9), (31, 10), (0, 14), (0, 15), (0, 16)] ==
        [false, true, true, false, false, true, false] && t.reg 15 == 0 && t.event == .draw) = true := by decide

/-- DSP-9: the column comes from the old VF, the collision is written last. -/
theorem test_drw_collision : stepsTo
    ((((poke (running 0xDF11) 0x300 [0x80]).setI 0x300).setReg 15 2).setFb (picture [(0, 2)]))
    (fun t => pixels t [(0, 0), (0, 2), (0, 3)] == [false, false, false] && t.reg 15 == 1) = true := by decide

/-- CTL-8. -/
theorem test_jpV0_unmasked : stepsTo ((running 0xBFFF).setReg 0 0xFF) (fun t => t.pc == 0x10FE) = true := by decide

/-- MEM-1. -/
theorem test_ldI : stepsTo (running 0xA123) (fun t => t.i == 0x123) = true := by decide

/-- MEM-2, MEM-3. -/
theorem test_addI_wraps : stepsTo ((((running 0xF11E).setI 0xFFFF).setReg 1 2).setReg 15 7)
    (fun t => t.i == 1 && t.reg 15 == 7) = true := by decide
theorem test_addI_unmasked : stepsTo (((running 0xF11E).setI 0x0FFF).setReg 1 1) (fun t => t.i == 0x1000) = true := by decide

/-- MEM-4 and MEM-5, with FONT_BASE given. -/
theorem test_glyphAddress : glyphAddress 0x050 0x0A = 0x082 ∧ glyphAddress 0x000 0x0A = 0x032 := by decide

/-- MEM-7. -/
theorem test_ldF_refused : refusedWith ((running 0xF129).setReg 1 0x10) (.fontDigitOutOfRange 0xF129) = true := by decide

/-- MEM-8. -/
theorem test_ldB : stepsTo (((running 0xF133).setReg 1 0xFF).setI 0x300)
    (fun t => [0x300, 0x301, 0x302].map (readByte t.mem) == [2, 5, 5] && t.i == 0x300) = true := by decide

/-- MEM-11, MEM-13. -/
theorem test_ldiMem_inclusive : stepsTo (((running 0xF055).setReg 0 0xAA).setI 0x300)
    (fun t => [0x2FF, 0x300, 0x301].map (readByte t.mem) == [0, 0xAA, 0]) = true := by decide
theorem test_storeRegs_advances :
    let s := ((((State.reset.setReg 0 1).setReg 1 2).setReg 2 3).setReg 3 4).setI 0x300
    [0x300, 0x301, 0x302, 0x303].map (readByte (storeRegs true 3 s).mem) = [1, 2, 3, 4] ∧ (storeRegs true 3 s).i = 0x304 := by
  decide

/-- MEM-14, MEM-15. -/
theorem test_ldvMem_inclusive : stepsTo (((poke (running 0xF265) 0x300 [9, 8, 7, 6]).setI 0x300).setReg 3 0x55)
    (fun t => [0, 1, 2, 3].map t.reg == [9, 8, 7, 0x55]) = true := by decide
theorem test_loadRegs_advances :
    (loadRegs true 2 (State.reset.setI 0x300)).i = 0x303 ∧ (loadRegs false 2 (State.reset.setI 0x300)).i = 0x300 := by decide

/-- TMK-1. -/
theorem test_ldvDt : stepsTo ((running 0xF107).setDt 0x3C) (fun t => t.reg 1 == 0x3C && t.dt == 0x3C) = true := by decide

/-- TMK-2. -/
theorem test_lddt : stepsTo (((running 0xF115).setDt 5).setReg 1 0x20) (fun t => t.dt == 0x20) = true := by decide

/-- TMK-3. -/
theorem test_ldSt : stepsTo ((running 0xF118).setReg 1 0x20) (fun t => t.st == 0x20) = true := by decide

/-- TMK-4. -/
theorem test_ldvKey_waits : stepsTo ((running 0xF10A).setReg 1 0x77)
    (fun t => t.pc == 0x200 && t.reg 1 == 0x77 && t.event == .waitForKey) = true := by decide

/-- The default KEY_ORDER of 00_scope.md R7, used by the vectors. -/
def defaultOrder : List Key := [1, 2, 3, 12, 4, 5, 6, 13, 7, 8, 9, 14, 10, 0, 11, 15]

/-- TMK-6, TMK-7, TMK-8: which pressed key comes first in the default order. -/
theorem test_firstPressed :
    [[0, 15], [10, 1], [14, 10]].map (fun down => firstPressed defaultOrder (keysDown State.reset down)) =
      [some 0, some 1, some 14] := by decide

/-- TMK-9, TMK-13. -/
theorem test_skp_taken : stepsTo ((keysDown (running 0xE19E) [3]).setReg 1 3) (fun t => t.pc == 0x204) = true := by decide
theorem test_skp_refused : refusedWith ((running 0xE19E).setReg 1 0x10) (.keyIndexOutOfRange 0xE19E) = true := by decide

/-- TMK-11, TMK-12. -/
theorem test_sknp_not_taken : stepsTo ((keysDown (running 0xE1A1) [3]).setReg 1 3) (fun t => t.pc == 0x202) = true := by decide
theorem test_sknp_taken : stepsTo ((running 0xE1A1).setReg 1 3) (fun t => t.pc == 0x204) = true := by decide

/-- CTL-19, and CTL-18 from reset with nothing placed. -/
theorem test_sys : stopsWith (running 0x0123) (.unimplementedOpcode 0x0123) = true := by decide
theorem test_reset_step : stopsWith State.reset (.unimplementedOpcode 0x0000) = true := by decide

/-- FET-3. -/
theorem test_step_unmatched : stopsWith (running 0x8AB8) (.unimplementedOpcode 0x8AB8) = true := by decide

/-- FET-8: PC is masked at fetch. -/
theorem test_fetch_masks : stepsTo ((State.reset.setPc 0x10FE).withFetchWord 16 0x1200) (fun t => t.pc == 0x200) = true := by
  decide

/-- L1-2: big-endian, at an odd address, masked. -/
theorem test_readWord :
    let m := writeBytes [] 0x200 [0x12, 0x34, 0x56]
    readWord m 0x200 = 0x1234 ∧ readWord m 0x201 = 0x3456 ∧ readWord m 0x1200 = 0x1234 := by decide

/-- TMK-14, TMK-15. -/
theorem test_tick : (let t := ((State.reset.setDt 0).setSt 5).tick; (t.dt, t.st)) = (0, 4) := by decide
theorem test_tick_floor : (let t := ((State.reset.setDt 0xFF).setSt 0).tick; (t.dt, t.st)) = (0xFE, 0) := by decide

/-- TMK-16. -/
theorem test_refresh : ((keysDown State.reset [1]).refresh [2, 7]).keys.toList =
    [false, false, true, false, false, false, false, true, false, false, false, false, false, false, false, false] := by decide

/-- INI-3. -/
theorem test_image : fetchWord (initialise [0x12, 0x34]) = 0x1234 := by decide

/-- INI-1, INI-2: first and last glyph in a font at 0x050, and the byte after a font at 0x000. -/
theorem test_font :
    [0x04F, 0x050, 0x054, 0x09B, 0x09F].map (initialByteOf 0x050 canonicalGlyphs) = [0, 0xF0, 0xF0, 0xF0, 0x80] ∧
    [0x000, 0x04B, 0x04F, 0x050].map (initialByteOf 0x000 canonicalGlyphs) = [0xF0, 0xF0, 0x80, 0] := by decide

/-! ## Witnesses: the hypotheses of each statement are met together -/

/-- A state in which every instruction with a next state has one: a return address, a key number in V1, I at free memory. -/
def ready : State := ((keysDown State.reset [1]).setStack [0x202]).setI 0x300

/-- One word of each of the 34 registered rows (x = 1, y = 2). -/
def oneOfEach : List Nat :=
  [0x00E0, 0x00EE, 0x1ABC, 0x2ABC, 0x3142, 0x4142, 0x5120, 0x6142, 0x7142, 0x8120, 0x8121, 0x8122, 0x8123, 0x8124, 0x8125,
    0x8126, 0x8127, 0x812E, 0x9120, 0xAABC, 0xBABC, 0xC142, 0xD12F, 0xE19E, 0xE1A1, 0xF107, 0xF10A, 0xF115, 0xF118, 0xF11E,
    0xF129, 0xF133, 0xF155, 0xF165]

/-- ProgramCounterAfterEachStep, RegistersAreWrittenOnlyAsDestinations, EachPartHasItsOwnWriters, EventsOfAStep: for each row
the step answers a next state. -/
theorem witness_every_row_steps : oneOfEach.all (fun w => stepsTo (ready.withFetchWord 16 w) (fun _ => true)) = true := by
  decide

/-- … and the word placed is decoded. -/
theorem witness_every_row_decodes :
    oneOfEach.all (fun w => match decode (fetchWord (ready.withFetchWord 16 w)) with
      | .instr _ => true
      | .unimplementedOpcode _ => false) = true := by decide

/-- The skips of ProgramCounterAfterEachStep and SkipsAddTwoWhenTheConditionHolds, both ways for each. -/
theorem witness_skips_both_ways :
    ([0x3100, 0x4142, 0x5120, 0x9100].map (fun w => stepsTo (ready.withFetchWord 16 w) (fun t => t.pc == 0x204)),
      [0x3142, 0x4100, 0x9120, 0x8120].map (fun w => stepsTo (ready.withFetchWord 16 w) (fun t => t.pc == 0x202)),
      stepsTo ((ready.setReg 1 7).withFetchWord 16 0x5120) (fun t => t.pc == 0x202),
      stepsTo ((ready.setReg 1 7).withFetchWord 16 0x9120) (fun t => t.pc == 0x204)) =
    ([true, true, true, false], [true, true, true, true], true, true) := by decide

/-- EventsOfAStep: each event occurs. -/
theorem witness_events :
    stepsTo (running 0xD010) (fun t => t.event == .draw) = true ∧
    stepsTo (running 0xF10A) (fun t => t.event == .waitForKey) = true ∧
    stepsTo (running 0x00E0) (fun t => t.event == .none) = true := by decide

/-- StepKeepsTheInvariant, EveryReachableStateMeetsTheInvariant. -/
theorem witness_inv : ready.Inv ∧ (ready.setStack (List.replicate 16 0x202)).Inv ∧ (poke ready 0xFFF [1]).Inv := by decide
theorem witness_step_from_inv : (running 0x2200).Inv ∧ ∃ t, step (running 0x2200) = .next t ∧ (t.stack == [0x202]) = true :=
  ⟨by decide, exists_of_stepsTo (by decide)⟩
theorem witness_reachable : Reachable (runActions [.step, .tick, .refresh [3]] (initialise [0x60, 0x05])) := ⟨_, _, rfl⟩

/-- DecodeOfEncodeIsTheInstruction, EncodeOfDecodeIsTheWord, DispatchOrderNeverMatters. -/
theorem witness_wellFormed : (Instr.drw 15 15 15).wellFormed = true ∧ (Instr.sys 0xFFF).wellFormed = true := by decide
theorem witness_decode : decode 0xFF65 = .instr (.ldvMem 15) ∧ decode 0x0000 = .instr (.sys 0) := by decide
theorem witness_rows : dispatchTable.reverse.Perm dispatchTable := List.reverse_perm _

/-- UnmatchedWordsByClass: each class has a word with no row, and each has one with a row. -/
theorem witness_unmatched :
    [0x00E1, 0x5AB1, 0x8AB8, 0x9AB1, 0xE19F, 0xF100].map (fun op => (dispatch op).isNone) = List.replicate 6 true ∧
    [0x00E0, 0x5AB0, 0x8ABE, 0x9AB0, 0xE19E, 0xF107].map (fun op => (dispatch op).isSome) = List.replicate 6 true := by decide

/-- StepRunsTheDecodedInstruction, both clauses. -/
theorem witness_step_runs :
    let s := running 0x8124
    s.halted = false ∧ decodeBytes (readByte s.mem s.pc.toNat) (readByte s.mem (s.pc.toNat + 1)) = .instr (.addReg 1 2) := by
  decide
theorem witness_step_stops :
    let s := running 0x8128
    s.halted = false ∧ dispatch (readWord s.mem s.pc.toNat) = none := by decide

/-- UnmatchedWordIsFatal. -/
theorem witness_unmatched_word :
    (running 0x5AB1).halted = false ∧ (∀ row ∈ dispatchTable, rowMatches (fetchWord (running 0x5AB1)) row = false) := by decide

/-- SysIsFatal: both ends of the range, and next to the two words left out. -/
theorem witness_sys :
    [0x0000, 0x00DF, 0x00E1, 0x00ED, 0x00EF, 0x0FFF].map (fun op => (running op).halted || fetchWord (running op) != op) =
      List.replicate 6 false ∧
    [0x000, 0x0DF, 0x0E1, 0x0ED, 0x0EF, 0xFFF].map zextAddr = [0x0000, 0x00DF, 0x00E1, 0x00ED, 0x00EF, 0x0FFF] ∧
    (0x0E0 : Addr12) ∉ [0x000, 0x0DF, 0x0E1, 0x0ED, 0x0EF, 0xFFF] ∧ (0x0EE : Addr12) ∉ [0x000, 0x0DF, 0x0E1, 0x0ED, 0x0EF, 0xFFF] := by
  decide

/-- FatalConditionsAreExactlyThese: each condition, with at most 16 entries. -/
theorem witness_fatal_halted : (ready.setHalted true).stack.length ≤ 16 ∧ step (ready.setHalted true) = .fault .halted :=
  ⟨by decide, rfl⟩
theorem witness_fatal_unmatched : (running 0x0000).stack.length ≤ 16 ∧ (running 0x0000).halted = false ∧
    dispatch (fetchWord (running 0x0000)) = none := by decide
theorem witness_fatal_overflow :
    let s := (running 0x2ABC).setStack (List.replicate 16 0x202)
    s.halted = false ∧ decode (fetchWord s) = .instr (.call 0xABC) ∧ s.stack.length = 16 := by decide
theorem witness_fatal_underflow :
    let s := running 0x00EE
    s.halted = false ∧ decode (fetchWord s) = .instr .ret ∧ s.stack = [] := by decide

/-- RefusalsAreExactlyThese: each refusal at the lowest value refused. -/
theorem witness_refusals :
    (let s := (running 0xF129).setReg 1 0x10
     s.halted = false ∧ decode (fetchWord s) = .instr (.ldF 1) ∧ (s.reg 1).toNat > 0xF) ∧
    (let s := (running 0xE19E).setReg 1 0x10
     s.halted = false ∧ decode (fetchWord s) = .instr (.skp 1) ∧ (s.reg 1).toNat > 0xF) ∧
    (let s := (running 0xE1A1).setReg 1 0x10
     s.halted = false ∧ decode (fetchWord s) = .instr (.sknp 1) ∧ (s.reg 1).toNat > 0xF) := by decide

/-- HaltedMachineStaysHalted: a halted state, and an action that answers no next state. -/
theorem witness_halted : (ready.setHalted true).halted = true := rfl
theorem witness_no_next : ∀ t, act .step State.reset ≠ .next t := by
  intro t
  have h : act .step State.reset = .fault (.unimplementedOpcode 0x0000) := step_of_stopsWith test_reset_step
  simp [h]

/-- A memory in canonical form that lists cells at both ends of free memory. -/
theorem witness_wf : Memory.wf [(0x0A0, 1), (0x300, 2), (0xFFF, 3)] := by decide

/-- CanonicalMemoryIsUnique: two orders of writing. -/
theorem witness_canonical :
    let m := writeByte (writeByte [] 0x300 1) 0x301 2
    let m' := writeByte (writeByte [] 0x301 2) 0x300 1
    m.wf ∧ m'.wf ∧ ∀ a < 4096, readByte m a = readByte m' a := by
  have h : writeByte (writeByte [] 0x300 1) 0x301 2 = writeByte (writeByte [] 0x301 2) 0x300 1 := by decide
  simp only [h, implies_true, and_true]
  decide

/-- ImageIsLoadedVerbatimAndTruncated: the last byte loaded of a longer image, the last byte below 0x200, the last byte of
memory after a shorter image. -/
theorem witness_image : 3583 < min (List.replicate 3585 (0 : Byte)).length 3584 ∧ 0x1FF < 0x200 ∧
    (0xFFF < 4096 ∧ 0x200 + (List.replicate 3583 (0 : Byte)).length ≤ 0xFFF) := by
  simp only [List.length_replicate]
  decide

/-- FontAfterInitialisation: the last glyph byte; the last byte of the region lies after the font, whichever base. -/
theorem witness_font : 79 < 80 ∧ 0x1FF < 0x200 ∧ (0x1FF < fontBase.toNat ∨ fontBase.toNat + 80 ≤ 0x1FF) := by
  unfold fontBase
  split <;> decide

/-- FlagsOfArithmeticAndLogic, ArithmeticWritesTheWrappedResult: each flag both ways at the edge, and a destination that is not VF. -/
theorem witness_flags :
    (0xFF + 0x01 > 0xFF ∧ ¬ 0xFF + 0x00 > 0xFF) ∧ (5 ≥ 5 ∧ ¬ 4 ≥ 5) ∧ (128 / 128 = 1 ∧ ¬ 127 / 128 = 1) ∧
    (1 % 2 = 1 ∧ ¬ 2 % 2 = 1) ∧ ((14 : Reg) ≠ 15) := by decide

/-- ClearScreenTurnsEveryPixelOff. -/
theorem witness_cls : (running 0x00E0).halted = false ∧ fetchWord (running 0x00E0) = 0x00E0 := by decide

/-- A sprite whose last row's bit 0 wraps in both directions, over a picture. -/
def sprite : State :=
  ((((poke State.reset 0x300 [0xC0, 0x01]).setI 0x300).setReg 0 0xC8).setReg 1 0x3F).setFb (picture [(0, 15), (31, 8)])

/-- DrawIsPointwiseXor: a pixel covered and on, one covered and off, one not covered, and no pixel covered at all. -/
theorem witness_covered_on : SpriteCovers sprite 0 1 2 0 15 ∧ sprite.fb.pixel 0 15 = true :=
  ⟨⟨1, by decide, 7, by decide, by decide, by decide, by decide⟩, by decide⟩
theorem witness_covered_off : SpriteCovers sprite 0 1 2 31 9 ∧ sprite.fb.pixel 31 9 = false :=
  ⟨⟨0, by decide, 1, by decide, by decide, by decide, by decide⟩, by decide⟩
theorem witness_not_covered (r : Fin 32) (c : Fin 64) : ¬ SpriteCovers sprite 0 1 0 r c := by
  rintro ⟨row, h, -⟩
  exact absurd h (by simp)

/-- DrawingTwiceRestoresThePicture. -/
theorem witness_draw_twice : (0 : Reg) ≠ 15 ∧ (1 : Reg) ≠ 15 ∧
    ∃ t u, exec (.drw 0 1 2) sprite = .next t ∧ exec (.drw 0 1 2) (beginStep t) = .next u :=
  ⟨by decide, by decide, _, _, rfl, rfl⟩

/-- CallAndReturnUseABoundedStack: 15 and 16 entries, one entry, none. -/
theorem witness_stack : (ready.setStack (List.replicate 15 0x202)).stack.length < 16 ∧
    (ready.setStack (List.replicate 16 0x202)).stack.length = 16 ∧ ready.stack = [] ++ [0x202] ∧ State.reset.stack = [] := by
  decide

/-- CallThenReturnComesBack (L1-6), with 15 entries already there. -/
theorem witness_call_return :
    let s := (poke (running 0x2208) 0x208 [0x00, 0xEE]).setStack (List.replicate 15 0x202)
    s.stack.length < 16 ∧ s.halted = false ∧ fetchWord s = encode (.call 0x208) ∧
      ∃ t, step s = .next t ∧ (fetchWord t == encode .ret) = true :=
  ⟨by decide, by decide, by decide, exists_of_stepsTo (by decide)⟩

/-- EndOfARunIsASelfLoop. -/
theorem witness_run_end : (running 0x1200).halted = false ∧ RunEndsAt 0x200 (running 0x1200) :=
  ⟨by decide, by decide, by decide⟩

/-- The run of an image ends as `f` says, for the named address 0x202. -/
def runEnds (image : List Byte) (actions : List HostAction) (f : RunEnd → Bool) : Bool :=
  f (endOfRun 0x202 actions (initialise image))

/-- EndOfARunIsTheFirstSelfLoop, EveryActionKeepsTheInvariant: a run of LD V0, 5 and JP 0x202 from its start. -/
theorem witness_run_start : (initialise [0x60, 0x05, 0x12, 0x02]).halted = false ∧ (initialise [0x60, 0x05, 0x12, 0x02]).Inv := by
  decide

/-- Each end occurs: the self-loop after one step (not after the two more that follow it), a fatal word, a refusal, and a host
that calls nothing more. -/
theorem witness_run_ends :
    runEnds [0x60, 0x05, 0x12, 0x02] [.tick, .step, .step, .refresh [1]]
      (fun e => match e with
        | .selfLoop t => t.pc == 0x202 && t.reg 0 == 5 && !t.pressed 1
        | _ => false) = true ∧
    runEnds [0x60, 0x05] [.step, .step] (fun e => match e with
      | .fatal t f => t.pc == 0x202 && f == .unimplementedOpcode 0
      | _ => false) = true ∧
    runEnds [0x60, 0x10, 0xE0, 0x9E] [.step, .step] (fun e => match e with
      | .refused t r => t.pc == 0x202 && r == .keyIndexOutOfRange 0xE09E
      | _ => false) = true ∧
    runEnds [0x60, 0x05, 0x12, 0x02] [.tick] (fun e => match e with
      | .hostStopped t => t.pc == 0x200
      | _ => false) = true := by decide

/-- FontDigitAddressesItsGlyph and KeySkipsQueryTheKeypad: the last value that completes and the first that is refused. -/
theorem witness_digit : ((ready.setReg 1 0xF).reg 1).toNat ≤ 0xF ∧ ((ready.setReg 1 0x10).reg 1).toNat > 0xF ∧
    (15 : Key).val = ((ready.setReg 1 0xF).reg 1).toNat := by decide

/-- GlyphBytesStandAtTheFontAddress. -/
theorem witness_glyph : (ready.setReg 1 0xF).mem = State.reset.mem ∧ ∃ t, exec (.ldF 1) (ready.setReg 1 0xF) = .next t :=
  ⟨rfl, _, rfl⟩

/-- BcdStoresThreeDigits and the block store: canonical memory; LoadAfterStoreGivesTheRegistersBack with every register lost
between the two. -/
theorem witness_load_after_store : ready.mem.wf ∧ ∃ t u w, exec (.ldiMem 15) ready = .next t ∧ u.mem = t.mem ∧ u.i = ready.i ∧
    u.v = Vector.replicate 16 0 ∧ exec (.ldvMem 15) u = .next w :=
  ⟨by decide, _, ((storeRegs Config.loadStoreAdvancesI 15 ready).setI ready.i).setV (Vector.replicate 16 0), _, rfl, rfl, rfl,
    rfl, rfl⟩

/-- StoredCodeIsFetchedByTheNextStep: the first and the last place in the block. -/
theorem witness_stored_code :
    (∃ t, exec (.ldiMem 1) (ready.setI 0x200) = .next t ∧
      busAddress t.pc.toNat = busAddress (indexAddress (ready.setI 0x200) 0)) ∧
    (∃ t, exec (.ldiMem 15) (ready.setI 0x1F2) = .next t ∧
      busAddress t.pc.toNat = busAddress (indexAddress (ready.setI 0x1F2) 14)) :=
  ⟨⟨_, rfl, rfl⟩, ⟨_, rfl, rfl⟩⟩

/-- KeyWaitStoresTheFirstPressedKey, WaitingForAKeyRepeats, KeyOrderIsAnyPermutation. -/
theorem witness_key_down : ∃ k, ready.pressed k = true := ⟨1, by decide⟩
theorem witness_no_key : (running 0xF10A).halted = false ∧ fetchWord (running 0xF10A) = encode (.ldvKey 1) ∧
    ∀ k, (running 0xF10A).pressed k = false := by decide
theorem witness_order : defaultOrder.Perm allKeys := by decide

/-- TickCountsBothTimersDown, RefreshReplacesTheKeypad: a running machine, timers at both ends. -/
theorem witness_running : ((ready.setDt 0).setSt 0xFF).halted = false := rfl

/-- SoundTimerIsNeverObserved, OnlyPcModulo4096Matters: two different related states. -/
theorem witness_same_but_sound : SameButSoundTimer ready (ready.setSt 7) ∧ ready ≠ ready.setSt 7 := by
  refine ⟨rfl, fun h => ?_⟩
  have := congrArg State.st h
  exact absurd this (by decide)
theorem witness_same_modulo : SameModuloMemorySize ready ((ready.setPc 0x1200).setStack [0x1202]) :=
  ⟨rfl, by decide, .cons (by decide) .nil⟩

end Sys2Proof.Tests
end

/-! # Family 10_state: the machine's state under a step

What each meaning can answer, what it leaves alone, and how two related runs step together; then the statements about the
state (10_state.md). -/

namespace Sys2Proof.Machine

/-! ## When an instruction completes, and with which state -/

/-- A step to a next state ran the instruction it decoded. -/
theorem exec_of_step_next {s t : State} {i : Instr} (h : step s = .next t) (hd : decode (fetchWord s) = .instr i) :
    s.halted = false ∧ exec i (beginStep s) = .next t := by
  obtain ⟨j, hrun, hj, hexec⟩ := step_next h
  obtain rfl : j = i := Decoded.instr.inj (hj.symm.trans hd)
  exact ⟨hrun, hexec⟩

theorem hexDigit_eq_some {b : Byte} {k : Fin 16} (h : hexDigit b = some k) : k.val = b.toNat := by
  unfold hexDigit at h
  split at h
  · cases h; rfl
  · cases h

theorem execRet_next {s t : State} (h : execRet s = .next t) :
    ∃ rest a, s.stack = rest ++ [a] ∧ t = (s.setStack rest).setPc a := by
  rcases popThen_eq (encode .ret) (fun a t => t.setPc a) s with ⟨rest, a, hs, heq⟩ | ⟨-, heq⟩
  · exact ⟨rest, a, hs, Host.Outcome.next.inj (h.symm.trans heq)⟩
  · cases h.symm.trans heq

theorem execCall_next {nnn : Addr12} {s t : State} (h : execCall nnn s = .next t) :
    s.stack.length < 16 ∧ t = (s.setStack (s.stack ++ [s.pc])).setPc (zextAddr nnn) := by
  rcases pushThen_eq (encode (.call nnn)) s.pc (fun t => t.setPc (zextAddr nnn)) s with ⟨hlt, heq⟩ | ⟨-, heq⟩
  · exact ⟨hlt, Host.Outcome.next.inj (h.symm.trans heq)⟩
  · cases h.symm.trans heq

theorem execSkp_next {x : Reg} {s t : State} (h : execSkp x s = .next t) :
    ∃ k : Key, k.val = (s.reg x).toNat ∧ t = s.skipIf (s.pressed k) := by
  unfold execSkp at h
  split at h
  next k hk => exact ⟨k, hexDigit_eq_some hk, (Host.Outcome.next.inj h).symm⟩
  next => cases h

theorem execSknp_next {x : Reg} {s t : State} (h : execSknp x s = .next t) :
    ∃ k : Key, k.val = (s.reg x).toNat ∧ t = s.skipIf (!s.pressed k) := by
  unfold execSknp at h
  split at h
  next k hk => exact ⟨k, hexDigit_eq_some hk, (Host.Outcome.next.inj h).symm⟩
  next => cases h

theorem execLdF_next {x : Reg} {s t : State} (h : execLdF x s = .next t) :
    t = s.setI (glyphAddress fontBase (s.reg x)) := by
  unfold execLdF at h
  split at h
  next => exact (Host.Outcome.next.inj h).symm
  next => cases h

theorem execLdvMem_next {x : Reg} {s t : State} (h : execLdvMem x s = .next t) :
    t = loadRegs Config.loadStoreAdvancesI x s :=
  (Host.Outcome.next.inj h).symm

/-- FX0A either takes a pressed key or waits, with no key down (44_timer_key.md R235, R237). -/
theorem execLdvKey_next {x : Reg} {s t : State} (h : execLdvKey x s = .next t) :
    (∃ k, s.pressed k = true ∧ t = s.setReg x (keyByte k)) ∨
      ((∀ k, s.pressed k = false) ∧ t = s.rewindPc.setEvent .waitForKey) := by
  unfold execLdvKey at h
  have ht := (Host.Outcome.next.inj h).symm
  cases hk : anyPressed s with
  | some k => exact .inl ⟨k, anyPressed_pressed hk, by rw [ht, hk]⟩
  | none => exact .inr ⟨anyPressed_none.mp hk, by rw [ht, hk]⟩

/-! ## FX65 changes registers, and I at most -/

@[simp] theorem loadRegs_pc (advances : Bool) (x : Reg) (s : State) : (loadRegs advances x s).pc = s.pc := by
  simp only [loadRegs, State.advanceI_pc, State.setRegsUpTo_pc]

@[simp] theorem loadRegs_stack (advances : Bool) (x : Reg) (s : State) : (loadRegs advances x s).stack = s.stack := by
  simp only [loadRegs, State.advanceI_stack, State.setRegsUpTo_stack]

theorem reg_loadRegs_of_gt (advances : Bool) {x r : Reg} (h : ¬ r ≤ x) (s : State) :
    (loadRegs advances x s).reg r = s.reg r := by
  rw [loadRegs, State.reg_advanceI, State.reg_setRegsUpTo, if_neg h]

/-! ## The general registers (10_state.md R22) -/

theorem exec_reg_of_not_destination {i : Instr} {s t : State} {r : Reg} (h : exec i s = .next t)
    (hr : ¬ destinations i r) : t.reg r = s.reg r := by
  cases i with
  | ret => obtain ⟨rest, a, -, rfl⟩ := execRet_next h; rfl
  | call nnn => obtain ⟨-, rfl⟩ := execCall_next h; rfl
  | skp x => obtain ⟨k, -, rfl⟩ := execSkp_next h; simp
  | sknp x => obtain ⟨k, -, rfl⟩ := execSknp_next h; simp
  | ldF x => rw [execLdF_next h]; rfl
  | ldvKey x =>
    obtain ⟨k, -, rfl⟩ | ⟨-, rfl⟩ := execLdvKey_next h
    · exact s.reg_setReg_ne hr _
    · rfl
  | sys nnn => cases h
  | ldImm x | addImm x | ldReg x | orReg x | andReg x | xorReg x | rnd x | ldvDt x =>
    cases h
    exact State.reg_setReg_ne _ hr _
  | addReg x | sub x | shr x | subn x | shl x =>
    cases h
    obtain ⟨hx, hf⟩ := not_or.mp hr
    rw [State.reg_setResultFlag, if_neg hf, if_neg hx]
  | drw x y n =>
    cases h
    exact State.reg_setReg_ne _ hr _
  | ldvMem x =>
    rw [execLdvMem_next h]
    exact reg_loadRegs_of_gt _ hr s
  | seImm | sneImm | seReg | sneReg => cases h; exact State.reg_skipIf _ _ _
  | _ => cases h; rfl

/-! ## Every other part (10_state.md section 1, the "written by" column) -/

/-- The frame of an instruction that completes from `s` in `t`: each part is as it was, or the instruction is one of the
part's writers. -/
structure ExecFrame (i : Instr) (s t : State) : Prop where
  keys : t.keys = s.keys
  halted : t.halted = s.halted
  mem : t.mem = s.mem ∨ ∃ x, i = .ldB x ∨ i = .ldiMem x
  fb : t.fb = s.fb ∨ i = .cls ∨ ∃ x y n, i = .drw x y n
  stack : t.stack = s.stack ∨ i = .ret ∨ ∃ nnn, i = .call nnn
  dt : t.dt = s.dt ∨ ∃ x, i = .lddt x
  st : t.st = s.st ∨ ∃ x, i = .ldSt x
  index : t.i = s.i ∨ (∃ nnn, i = .ldI nnn) ∨ ∃ x, i = .addI x ∨ i = .ldF x ∨ i = .ldiMem x ∨ i = .ldvMem x

theorem exec_frame {i : Instr} {s t : State} (h : exec i s = .next t) : ExecFrame i s t := by
  cases i with
  | ret => obtain ⟨rest, a, -, rfl⟩ := execRet_next h; constructor <;> simp
  | call nnn => obtain ⟨-, rfl⟩ := execCall_next h; constructor <;> simp
  | skp x => obtain ⟨k, -, rfl⟩ := execSkp_next h; constructor <;> simp
  | sknp x => obtain ⟨k, -, rfl⟩ := execSknp_next h; constructor <;> simp
  | ldF x => obtain rfl := execLdF_next h; constructor <;> simp
  | ldvKey x => obtain ⟨k, -, rfl⟩ | ⟨-, rfl⟩ := execLdvKey_next h <;> constructor <;> simp
  | sys nnn => cases h
  | rnd x kk => cases h; constructor <;> simp [rndWith]
  | ldiMem x => cases h; constructor <;> simp [storeRegs]
  | ldvMem x => obtain rfl := execLdvMem_next h; constructor <;> simp [loadRegs]
  | _ => cases h; constructor <;> simp

/-! ## The program counter (10_state.md R26) -/

/-- The two ends of a skip, from the state before the step (42_control.md R181). -/
theorem beginStep_skipIf_pc (s : State) {c : Bool} {P : Prop} (h : c = true ↔ P) :
    (P → ((beginStep s).skipIf c).pc = s.pc + 4) ∧ (¬ P → ((beginStep s).skipIf c).pc = s.pc + 2) := by
  rw [State.skipIf_pc, beginStep_pc, BitVec.add_assoc, ← h]
  exact ⟨fun hc => if_pos hc, fun hc => if_neg hc⟩

/-- A statement about the key with a number is one about the key. -/
theorem exists_key_val {k : Key} {n : Nat} (hk : k.val = n) (P : Key → Prop) : (∃ j : Key, j.val = n ∧ P j) ↔ P k := by
  subst hk
  simp [← Fin.ext_iff]

theorem pressed_congr {s t : State} (h : t.keys = s.keys) : t.pressed = s.pressed := by
  funext k
  simp only [State.pressed, h]

theorem zextAddr_toNat (nnn : Addr12) : (zextAddr nnn).toNat = nnn.toNat :=
  BitVec.toNat_setWidth_of_le (by decide)

theorem zextByte_toNat (b : Byte) : (zextByte b).toNat = b.toNat :=
  BitVec.toNat_setWidth_of_le (by decide)

/-- The sum of BNNN never wraps (42_control.md R180). -/
theorem zextAddr_add_zextByte_toNat (nnn : Addr12) (b : Byte) :
    (zextAddr nnn + zextByte b).toNat = nnn.toNat + b.toNat := by
  rw [BitVec.toNat_add, zextAddr_toNat, zextByte_toNat]
  omega

theorem exec_pcAfterStep {i : Instr} {s t : State} (h : exec i (beginStep s) = .next t) : pcAfterStep i s t.pc := by
  cases i with
  | ret =>
    obtain ⟨rest, a, hs, rfl⟩ := execRet_next h
    exact (congrArg List.getLast? hs).trans List.getLast?_concat
  | call nnn => obtain ⟨-, rfl⟩ := execCall_next h; exact zextAddr_toNat nnn
  | jp nnn => cases h; exact zextAddr_toNat nnn
  | jpV0 nnn => cases h; exact zextAddr_add_zextByte_toNat nnn (s.reg 0)
  | seImm x kk => cases h; exact beginStep_skipIf_pc s beq_iff_eq
  | sneImm x kk => cases h; exact beginStep_skipIf_pc s bne_iff_ne
  | seReg x y => cases h; exact beginStep_skipIf_pc s beq_iff_eq
  | sneReg x y => cases h; exact beginStep_skipIf_pc s bne_iff_ne
  | skp x =>
    obtain ⟨k, hk, rfl⟩ := execSkp_next h
    exact beginStep_skipIf_pc s (exists_key_val hk fun j => s.pressed j = true).symm
  | sknp x =>
    obtain ⟨k, hk, rfl⟩ := execSknp_next h
    exact beginStep_skipIf_pc s (by rw [Bool.not_eq_true']; exact (exists_key_val hk fun j => s.pressed j = false).symm)
  | ldvKey x =>
    obtain ⟨k, hk, rfl⟩ | ⟨hnone, rfl⟩ := execLdvKey_next h
    · exact ⟨fun hall => absurd (hall k) (ne_false_of_eq_true hk), fun _ => rfl⟩
    · exact ⟨fun _ => BitVec.add_sub_cancel _ _, fun ⟨k, hk⟩ => absurd (hnone k) (ne_false_of_eq_true hk)⟩
  | ldF x => rw [execLdF_next h]; rfl
  | ldvMem x => rw [execLdvMem_next h]; exact loadRegs_pc _ x (beginStep s)
  | sys nnn => cases h
  | _ => cases h; rfl

/-! ## The invariant (10_state.md R35, R42) -/

theorem exec_mem_wf {i : Instr} {s t : State} (h : exec i s = .next t) (hs : s.mem.wf) : t.mem.wf := by
  rcases (exec_frame h).mem with hm | ⟨x, rfl | rfl⟩
  · rwa [hm]
  · cases h; exact wf_writeBytes hs _ _
  · cases h; exact wf_writeBytes hs _ _

theorem exec_stack_le {i : Instr} {s t : State} (h : exec i s = .next t) (hs : s.stack.length ≤ 16) :
    t.stack.length ≤ 16 := by
  rcases (exec_frame h).stack with hk | rfl | ⟨nnn, rfl⟩
  · rwa [hk]
  · obtain ⟨rest, a, hstack, rfl⟩ := execRet_next h
    rw [hstack, List.length_append] at hs
    exact (Nat.le_add_right _ _).trans hs
  · obtain ⟨hlt, rfl⟩ := execCall_next h
    rw [State.setPc_stack, State.setStack_stack, List.length_append]
    exact hlt

theorem step_keeps_inv {s t : State} (hs : s.Inv) (h : step s = .next t) : t.Inv := by
  obtain ⟨i, -, -, hexec⟩ := step_next h
  obtain ⟨hmem, hstack⟩ := hs
  exact ⟨exec_mem_wf hexec hmem, exec_stack_le hexec hstack⟩

theorem act_next_keeps_inv {a : HostAction} {s t : State} (hs : s.Inv) (h : act a s = .next t) : t.Inv := by
  rcases act_next h with ⟨-, hstep⟩ | ⟨-, -, rfl⟩ | ⟨down, -, -, rfl⟩
  · exact step_keeps_inv hs hstep
  · exact hs
  · rwa [State.Inv, State.refresh_mem, State.refresh_stack]

/-! ## Two runs side by side: one rule for each operation that branches -/

section Related

variable {R : State → State → Prop} {s t : State}

@[simp] theorem sameOutcome_next {u w : State} : SameOutcome R (.next u) (.next w) ↔ R u w := Iff.rfl

theorem anyPressed_congr (h : t.keys = s.keys) : anyPressed t = anyPressed s := by
  simp only [anyPressed, firstPressed, pressed_congr h]

theorem execRet_related (hlen : t.stack.length = s.stack.length)
    (h : ∀ rest rest' a b, s.stack = rest ++ [a] → t.stack = rest' ++ [b] →
      R ((s.setStack rest).setPc a) ((t.setStack rest').setPc b)) : SameOutcome R (execRet s) (execRet t) := by
  unfold execRet
  rcases popThen_eq (encode .ret) (fun a t => t.setPc a) s with ⟨rest, a, hs, heq⟩ | ⟨hs, heq⟩ <;>
    rcases popThen_eq (encode .ret) (fun a t => t.setPc a) t with ⟨rest', b, ht, heq'⟩ | ⟨ht, heq'⟩ <;>
    rw [heq, heq']
  · exact h rest rest' a b hs ht
  · simp [hs, ht] at hlen
  · simp [hs, ht] at hlen
  · rfl

theorem execCall_related {nnn : Addr12} (hlen : t.stack.length = s.stack.length)
    (h : R ((s.setStack (s.stack ++ [s.pc])).setPc (zextAddr nnn)) ((t.setStack (t.stack ++ [t.pc])).setPc (zextAddr nnn))) :
    SameOutcome R (execCall nnn s) (execCall nnn t) := by
  unfold execCall pushThen
  rw [hlen]
  split
  · exact h
  · rfl

theorem execSkp_related {x : Reg} (hreg : t.reg x = s.reg x) (hkeys : t.keys = s.keys)
    (h : ∀ c, R (s.skipIf c) (t.skipIf c)) : SameOutcome R (execSkp x s) (execSkp x t) := by
  unfold execSkp
  rw [hreg, pressed_congr hkeys]
  split
  · exact h _
  · rfl

theorem execSknp_related {x : Reg} (hreg : t.reg x = s.reg x) (hkeys : t.keys = s.keys)
    (h : ∀ c, R (s.skipIf c) (t.skipIf c)) : SameOutcome R (execSknp x s) (execSknp x t) := by
  unfold execSknp
  rw [hreg, pressed_congr hkeys]
  split
  · exact h _
  · rfl

theorem execLdF_related {x : Reg} (hreg : t.reg x = s.reg x) (h : ∀ a, R (s.setI a) (t.setI a)) :
    SameOutcome R (execLdF x s) (execLdF x t) := by
  unfold execLdF
  rw [hreg]
  split
  · exact h _
  · rfl

theorem execLdvKey_related {x : Reg} (hkeys : t.keys = s.keys) (hkey : ∀ b, R (s.setReg x b) (t.setReg x b))
    (hwait : R (s.rewindPc.setEvent .waitForKey) (t.rewindPc.setEvent .waitForKey)) :
    SameOutcome R (execLdvKey x s) (execLdvKey x t) := by
  unfold execLdvKey
  rw [anyPressed_congr hkeys, sameOutcome_next]
  split
  · exact hkey _
  · exact hwait

/-- Related states step alike when they fetch alike and every meaning keeps them related from the begun states. -/
theorem step_related (hhalted : t.halted = s.halted) (hfetch : fetchWord t = fetchWord s)
    (hexec : ∀ i, SameOutcome R (exec i (beginStep s)) (exec i (beginStep t))) : SameOutcome R (step s) (step t) := by
  unfold step fetchDecode
  rw [hhalted, hfetch]
  cases s.halted with
  | true => rfl
  | false =>
    cases decode (fetchWord s) with
    | instr i => exact hexec i
    | unimplementedOpcode op => rfl

end Related

/-! ## The sound timer is never read (10_state.md R34) -/

theorem sameButSoundTimer_iff {s t : State} : SameButSoundTimer s t ↔ ∃ b, t = s.setSt b :=
  ⟨fun h => ⟨t.st, h⟩, fun ⟨_, h⟩ => by rw [h]; rfl⟩

theorem skipIf_setSt (s : State) (b : Byte) (c : Bool) : (s.setSt b).skipIf c = (s.skipIf c).setSt b := by
  cases c <;> rfl

theorem sameButSoundTimer_skipIf (s : State) (b : Byte) (c : Bool) :
    SameButSoundTimer (s.skipIf c) ((s.setSt b).skipIf c) :=
  sameButSoundTimer_iff.mpr ⟨b, skipIf_setSt s b c⟩

theorem loadRegs_setSt (advances : Bool) (x : Reg) (s : State) (b : Byte) :
    loadRegs advances x (s.setSt b) = (loadRegs advances x s).setSt b := rfl

theorem exec_sameButSoundTimer (i : Instr) {s t : State} (h : SameButSoundTimer s t) :
    SameOutcome SameButSoundTimer (exec i s) (exec i t) := by
  obtain ⟨b, rfl⟩ := sameButSoundTimer_iff.mp h
  cases i with
  | ret =>
    refine execRet_related rfl fun rest rest' a a' hs ht => ?_
    obtain ⟨rfl, hlast⟩ := List.append_inj' (hs.symm.trans ht) rfl
    obtain rfl := List.singleton_inj.mp hlast
    rfl
  | call nnn => exact execCall_related rfl rfl
  | seImm | sneImm | seReg | sneReg => exact sameButSoundTimer_skipIf s b _
  | skp x => exact execSkp_related rfl rfl (sameButSoundTimer_skipIf s b)
  | sknp x => exact execSknp_related rfl rfl (sameButSoundTimer_skipIf s b)
  | ldF x => exact execLdF_related rfl fun _ => rfl
  | ldvKey x => exact execLdvKey_related rfl (fun _ => rfl) rfl
  | ldvMem x => exact sameOutcome_next.mpr (sameButSoundTimer_iff.mpr ⟨b, loadRegs_setSt _ x s b⟩)
  | _ => rfl

theorem step_sameButSoundTimer {s t : State} (h : SameButSoundTimer s t) :
    SameOutcome SameButSoundTimer (step s) (step t) := by
  obtain ⟨b, rfl⟩ := sameButSoundTimer_iff.mp h
  exact step_related rfl rfl fun i => exec_sameButSoundTimer i rfl

/-! ## PC and the return addresses matter modulo 4096 alone (10_state.md R28) -/

/-- Addresses that the bus takes to the same byte (20_memory.md R51). -/
abbrev SameBusAddress (a b : Word) : Prop := b.toNat % 4096 = a.toNat % 4096

theorem SameBusAddress.add {a b : Word} (h : SameBusAddress a b) (c : Word) : SameBusAddress (a + c) (b + c) := by
  simp only [SameBusAddress, BitVec.toNat_add] at h ⊢
  omega

theorem SameBusAddress.sub {a b : Word} (h : SameBusAddress a b) (c : Word) : SameBusAddress (a - c) (b - c) := by
  simpa only [BitVec.sub_eq_add_neg] using h.add (-c)

theorem readWord_congr (m : Memory) {a b : Nat} (h : a % 4096 = b % 4096) : readWord m a = readWord m b := by
  simp only [readWord, readByte_congr m h, readByte_congr m (Nat.ModEq.add_right 1 h)]

/-- The second of two related states is the first with another PC and other return addresses. -/
theorem sameModuloMemorySize_iff {s t : State} : SameModuloMemorySize s t ↔
    ∃ p l, t = (s.setPc p).setStack l ∧ SameBusAddress s.pc p ∧ List.Forall₂ SameBusAddress s.stack l := by
  refine ⟨fun ⟨ht, hp, hl⟩ => ⟨t.pc, t.stack, ht, hp, hl⟩, ?_⟩
  rintro ⟨p, l, rfl, hp, hl⟩
  exact ⟨rfl, hp, hl⟩

theorem SameModuloMemorySize.advancePc {s t : State} (h : SameModuloMemorySize s t) :
    SameModuloMemorySize s.advancePc t.advancePc := by
  obtain ⟨p, l, rfl, hp, hl⟩ := sameModuloMemorySize_iff.mp h
  exact ⟨rfl, hp.add 2, hl⟩

theorem SameModuloMemorySize.skipIf {s t : State} (h : SameModuloMemorySize s t) (c : Bool) :
    SameModuloMemorySize (s.skipIf c) (t.skipIf c) := by
  cases c with
  | false => exact h
  | true => exact h.advancePc

theorem SameModuloMemorySize.beginStep {s t : State} (h : SameModuloMemorySize s t) :
    SameModuloMemorySize (beginStep s) (beginStep t) := by
  obtain ⟨p, l, rfl, hp, hl⟩ := sameModuloMemorySize_iff.mp h
  exact ⟨rfl, hp.add 2, hl⟩

theorem SameModuloMemorySize.fetchWord_eq {s t : State} (h : SameModuloMemorySize s t) : fetchWord t = fetchWord s := by
  obtain ⟨p, l, rfl, hp, -⟩ := sameModuloMemorySize_iff.mp h
  exact readWord_congr s.mem hp

theorem SameModuloMemorySize.loadRegs {s t : State} (h : SameModuloMemorySize s t) (advances : Bool) (x : Reg) :
    SameModuloMemorySize (loadRegs advances x s) (loadRegs advances x t) := by
  obtain ⟨p, l, rfl, hp, hl⟩ := sameModuloMemorySize_iff.mp h
  exact sameModuloMemorySize_iff.mpr ⟨p, l, rfl, by simpa using hp, by simpa using hl⟩

theorem exec_sameModuloMemorySize (i : Instr) {s t : State} (h : SameModuloMemorySize s t) :
    SameOutcome SameModuloMemorySize (exec i s) (exec i t) := by
  have hskip := h.skipIf
  have hload := h.loadRegs
  obtain ⟨p, l, rfl, hp, hl⟩ := sameModuloMemorySize_iff.mp h
  cases i with
  | ret =>
    refine execRet_related hl.length_eq.symm fun rest rest' a a' hs ht => ?_
    obtain rfl : l = rest' ++ [a'] := ht
    rw [hs, ← List.forall₂_reverse_iff] at hl
    obtain ⟨ha, hrest⟩ : SameBusAddress a a' ∧ List.Forall₂ SameBusAddress rest rest' := by simpa using hl
    exact ⟨rfl, ha, hrest⟩
  | call nnn =>
    exact execCall_related hl.length_eq.symm ⟨rfl, rfl, List.rel_append hl (.cons hp .nil)⟩
  | jp | jpV0 => exact ⟨rfl, rfl, hl⟩
  | seImm | sneImm | seReg | sneReg => exact hskip _
  | skp x => exact execSkp_related rfl rfl hskip
  | sknp x => exact execSknp_related rfl rfl hskip
  | ldF x => exact execLdF_related rfl fun _ => ⟨rfl, hp, hl⟩
  | ldvKey x => exact execLdvKey_related rfl (fun _ => ⟨rfl, hp, hl⟩) ⟨rfl, hp.sub 2, hl⟩
  | ldvMem x => exact sameOutcome_next.mpr (hload _ x)
  | sys nnn => rfl
  | _ => exact ⟨rfl, hp, hl⟩

/-! ## The statements -/

/-- Settles O18: only FX33 and FX55 change memory, by bus writes, and only 2NNN deepens the stack, where it has room. -/
theorem stepKeepsTheInvariant : Obligations.StepKeepsTheInvariant :=
  fun _ _ hs h => step_keeps_inv hs h

/-- Settles O56: the relation is a simulation, one rule for each meaning. -/
theorem onlyPcModulo4096Matters : Obligations.OnlyPcModulo4096Matters := fun s t h =>
  step_related (by obtain ⟨p, l, rfl, -⟩ := sameModuloMemorySize_iff.mp h; rfl) h.fetchWord_eq
    fun i => exec_sameModuloMemorySize i h.beginStep

/-- Settles O57: a next state by the case of its action; a fatal or refused outcome changes `halted` alone. -/
theorem everyActionKeepsTheInvariant : Obligations.EveryActionKeepsTheInvariant := by
  intro a s hs
  cases h : act a s with
  | next t => exact act_next_keeps_inv hs h
  | fault f => exact hs
  | refused r => exact hs

/-- Settles O13: each meaning's PC from the begun state, whose PC is already advanced by 2. -/
theorem programCounterAfterEachStep : Obligations.ProgramCounterAfterEachStep :=
  fun _ _ _ h hd => exec_pcAfterStep (exec_of_step_next h hd).2

/-- Settles O14: the first part from the laws of runs, the second by the kind of the outcome. -/
theorem haltedMachineStaysHalted : Obligations.HaltedMachineStaysHalted := by
  refine ⟨fun actions s h => ⟨act_halted h, runActions_halted h actions⟩, fun s a h => ?_⟩
  cases hact : act a s with
  | next t => exact absurd hact (h t)
  | fault f => rfl
  | refused r => rfl

/-- Settles O53: each meaning writes its destinations alone, and nothing before it writes a register. -/
theorem registersAreWrittenOnlyAsDestinations : Obligations.RegistersAreWrittenOnlyAsDestinations :=
  fun s _ _ r h hd hr => (exec_reg_of_not_destination (exec_of_step_next h hd).2 hr).trans (reg_beginStep s r)

/-- Settles O54: the frame of the instruction, and PC and the event alone change before it runs. -/
theorem eachPartHasItsOwnWriters : Obligations.EachPartHasItsOwnWriters := by
  intro s t i h hd
  obtain ⟨hrun, hexec⟩ := exec_of_step_next h hd
  have frame := exec_frame hexec
  exact ⟨frame.keys, frame.halted.trans hrun, frame.mem.resolve_left, frame.fb.resolve_left, frame.stack.resolve_left,
    frame.dt.resolve_left, frame.st.resolve_left, frame.index.resolve_left⟩

/-- Settles O55: the relation is a simulation, because every meaning commutes with a write of ST. -/
theorem soundTimerIsNeverObserved : Obligations.SoundTimerIsNeverObserved :=
  fun _ _ h => step_sameButSoundTimer h

/-- Settles O21: loading an image writes memory alone, so both are the values of reset. -/
theorem registersAfterInitialisation : Obligations.RegistersAfterInitialisation := by
  refine fun image => ⟨fun r => ?_, rfl⟩
  calc (initialise image).reg r = State.reset.reg r := rfl
    _ = 0 := by simp [State.reg, State.reset]

end Sys2Proof.Machine

/-! # Family 20_memory: the one address space

What a canonical memory lists, and what a word read and the block store of FX55 say byte by byte; then the statements
about memory (20_memory.md). -/

namespace Sys2Proof.Machine

/-! ## The cells a canonical memory lists (log 24) -/

/-- A canonical memory lists exactly the addresses that do not read as their initial byte. -/
theorem Memory.mem_iff_get {m : Memory} (h : m.wf) (a : Nat) (b : Byte) :
    (a, b) ∈ m ↔ m.get a = b ∧ b ≠ initialByte a := by
  induction m with
  | nil => simp only [List.not_mem_nil, Memory.get, false_iff, not_and, not_not, eq_comm, imp_self]
  | cons d rest ih =>
    obtain ⟨k, c⟩ := d
    rw [List.mem_cons, ih (Memory.wf_tail h), Memory.get]
    by_cases hk : k = a
    · subst hk
      have hc : c ≠ initialByte k := (h.2 (k, c) List.mem_cons_self).2
      have hrest : Memory.get rest k = initialByte k := Memory.get_of_lt rest k fun e he => Memory.head_lt h he
      rw [if_pos rfl, hrest]
      constructor
      · rintro (hb | ⟨hb, hne⟩)
        · obtain rfl : b = c := congrArg Prod.snd hb
          exact ⟨rfl, hc⟩
        · exact absurd hb.symm hne
      · rintro ⟨rfl, -⟩
        exact .inl rfl
    · rw [if_neg hk, or_iff_right fun hd => hk (congrArg Prod.fst hd).symm]

/-- A cell of a canonical memory is one of every canonical memory that reads the same. -/
theorem Memory.subset_of_readByte_eq {m m' : Memory} (h : m.wf) (h' : m'.wf)
    (hread : ∀ a < 4096, readByte m a = readByte m' a) : m ⊆ m' := by
  rintro ⟨a, b⟩ hmem
  have ha : a < 4096 := (h.2 _ hmem).1
  have hget : m.get a = m'.get a := by
    simpa only [readByte, busAddress, Nat.mod_eq_of_lt ha] using hread a ha
  rw [Memory.mem_iff_get h, hget] at hmem
  exact (Memory.mem_iff_get h' a b).mpr hmem

/-! ## Words (20_memory.md R53) -/

theorem wordOfBytes_toNat (hi lo : Byte) : (wordOfBytes hi lo).toNat = 256 * hi.toNat + lo.toNat := by
  have hlo : lo.toNat < 2 ^ 8 := lo.isLt
  have hhigh : (hi.setWidth 16 <<< 8).toNat = hi.toNat <<< 8 := by
    rw [BitVec.toNat_shiftLeft, BitVec.toNat_setWidth_of_le (by decide), Nat.mod_eq_of_lt]
    rw [Nat.shiftLeft_eq]
    omega
  rw [wordOfBytes, BitVec.toNat_or, hhigh, BitVec.toNat_setWidth_of_le (by decide), ← Nat.shiftLeft_add_eq_or_of_lt hlo,
    Nat.shiftLeft_eq, Nat.mul_comm]

/-! ## The block store of FX55 (43_index_memory.md R210) -/

/-- The block holds 16 bytes at most, so no byte of it is stored over another. -/
theorem readByte_storeRegs {s : State} (h : s.mem.wf) (advances : Bool) {x r : Reg} (hr : r ≤ x) :
    readByte (storeRegs advances x s).mem (indexAddress s r.val) = s.reg r := by
  have hlen : (s.regsUpTo x).length = x.val + 1 := s.regsUpTo_length x
  have hlt : r.val < (s.regsUpTo x).length := hlen ▸ Nat.lt_succ_of_le hr
  calc readByte (storeRegs advances x s).mem (indexAddress s r.val)
    _ = readByte (writeBytes s.mem (indexAddress s 0) (s.regsUpTo x)) (indexAddress s 0 + r.val) := rfl
    _ = (s.regsUpTo x)[r.val] := readByte_writeBytes_inside h _ _ (by omega) _ hlt
    _ = s.reg r := s.regsUpTo_getElem x r.val hlt

/-! ## The statements -/

/-- Settles O15: both reads go through the bus, and a word is its two bytes, the first one times 256. -/
theorem wordReadIsTwoByteReadsBigEndian : Obligations.WordReadIsTwoByteReadsBigEndian :=
  fun m a => ⟨rfl, wordOfBytes_toNat (readByte m a) (readByte m (a + 1))⟩

/-- Settles O16: the bus masks both addresses, and the masked ones are keys of the list. -/
theorem writeByteSetsOneByte : Obligations.WriteByteSetsOneByte :=
  fun _ a a' b h => Memory.get_put h (busAddress a) (busAddress a') b

/-- Settles O17: the reads fix the set of cells, and strictly rising keys fix their order. -/
theorem canonicalMemoryIsUnique : Obligations.CanonicalMemoryIsUnique := by
  intro m m' h h' hread
  have : Std.Asymm fun c d : Host.Cell => c.1 < d.1 := ⟨fun _ _ => Nat.lt_asymm⟩
  exact List.Subset.antisymm_of_pairwise h.1 h'.1 (Memory.subset_of_readByte_eq h h' hread)
    (Memory.subset_of_readByte_eq h' h fun a ha => (hread a ha).symm)

/-- Settles O45: the fetch masks PC, so it reads the addresses of bytes k and k + 1 of the block. -/
theorem storedCodeIsFetchedByTheNextStep : Obligations.StoredCodeIsFetchedByTheNextStep := by
  intro s t x k hk hs hexec hpc
  obtain rfl : t = storeRegs Config.loadStoreAdvancesI x s := (Host.Outcome.next.inj hexec).symm
  have hfirst := readByte_storeRegs hs Config.loadStoreAdvancesI (x := x) (r := ⟨k, by omega⟩) (Nat.le_of_succ_le hk)
  have hsecond := readByte_storeRegs hs Config.loadStoreAdvancesI (x := x) (r := ⟨k + 1, by omega⟩) hk
  rw [fetchWord, readWord_congr _ hpc, readWord, hfirst]
  exact congrArg _ hsecond

end Sys2Proof.Machine

/-! # Family 30_encoding: the dispatch table, the decoder and the encoder

The table as rows of six forms, what a row of each form matches and decodes, and what a step does by the word it fetches;
then the statements about encoding (30_encoding.md). -/

namespace Sys2Proof

/-! ## The table, its rows named by the fields their encodings have (R84) -/

/-- The row of one word: an encoding without fields. -/
def rowWord (w : Word) (i : Instr) : DispatchRow := ⟨w, 0xFFFF, fun _ => i⟩
/-- The row of `cccc nnnn nnnn nnnn`. -/
def rowNnn (c : BitVec 4) (h : Addr12 → Instr) : DispatchRow := ⟨wordNnn c 0, 0xF000, fun op => h (fieldNnn op)⟩
/-- The row of `cccc xxxx kkkk kkkk`. -/
def rowXKk (c : BitVec 4) (h : Reg → Byte → Instr) : DispatchRow :=
  ⟨wordNnn c 0, 0xF000, fun op => h (fieldX op) (fieldKk op)⟩
/-- The row of `cccc xxxx yyyy nnnn`. -/
def rowXYN (c : BitVec 4) (h : Reg → Reg → Count → Instr) : DispatchRow :=
  ⟨wordNnn c 0, 0xF000, fun op => h (fieldX op) (fieldY op) (fieldN op)⟩
/-- The row of `cccc xxxx yyyy` and a fixed low nibble. -/
def rowXY (c n : BitVec 4) (h : Reg → Reg → Instr) : DispatchRow :=
  ⟨wordXYN c 0 0 n, 0xF00F, fun op => h (fieldX op) (fieldY op)⟩
/-- The row of `cccc xxxx` and a fixed low byte. -/
def rowX (c : BitVec 4) (kk : Byte) (h : Reg → Instr) : DispatchRow :=
  ⟨wordXKk c 0 kk, 0xF0FF, fun op => h (fieldX op)⟩

/-- The 34 entries by the form of their encoding, in R84's order. -/
theorem dispatchTable_eq : dispatchTable =
    [rowWord 0x00E0 .cls, rowWord 0x00EE .ret, rowNnn 0x1 .jp, rowNnn 0x2 .call, rowXKk 0x3 .seImm, rowXKk 0x4 .sneImm,
      rowXY 0x5 0x0 .seReg, rowXKk 0x6 .ldImm, rowXKk 0x7 .addImm,
      rowXY 0x8 0x0 .ldReg, rowXY 0x8 0x1 .orReg, rowXY 0x8 0x2 .andReg, rowXY 0x8 0x3 .xorReg, rowXY 0x8 0x4 .addReg,
      rowXY 0x8 0x5 .sub, rowXY 0x8 0x6 .shr, rowXY 0x8 0x7 .subn, rowXY 0x8 0xE .shl,
      rowXY 0x9 0x0 .sneReg, rowNnn 0xA .ldI, rowNnn 0xB .jpV0, rowXKk 0xC .rnd, rowXYN 0xD .drw,
      rowX 0xE 0x9E .skp, rowX 0xE 0xA1 .sknp, rowX 0xF 0x07 .ldvDt, rowX 0xF 0x0A .ldvKey, rowX 0xF 0x15 .lddt,
      rowX 0xF 0x18 .ldSt, rowX 0xF 0x1E .addI, rowX 0xF 0x29 .ldF, rowX 0xF 0x33 .ldB, rowX 0xF 0x55 .ldiMem,
      rowX 0xF 0x65 .ldvMem] := rfl

/-! ## When a row matches -/

theorem rowMatches_iff {op : Word} {r : DispatchRow} : rowMatches op r = true ↔ op &&& r.mask = r.pattern := beq_iff_eq

theorem lowNibble_wordXYN (c : BitVec 4) (x y : Reg) (n : BitVec 4) : (wordXYN c x y n).extractLsb' 0 4 = n :=
  BitVec.toFin_inj.mp (fieldN_wordXYN c x y n)

theorem and_class_eq_iff {op : Word} {c : BitVec 4} : op &&& 0xF000 = wordNnn c 0 ↔ op.extractLsb' 12 4 = c := by
  have hop : op &&& 0xF000 = wordNnn (op.extractLsb' 12 4) 0 := by
    conv_lhs => rw [eq_wordNnn op]
    exact wordNnn_and_mask _ _
  rw [hop]
  refine ⟨fun h => ?_, fun h => by rw [h]⟩
  simpa only [class_wordNnn] using congrArg (BitVec.extractLsb' 12 4) h

theorem and_class_low_eq_iff {op : Word} {c n : BitVec 4} :
    op &&& 0xF00F = wordXYN c 0 0 n ↔ op.extractLsb' 12 4 = c ∧ op.extractLsb' 0 4 = n := by
  have hop : op &&& 0xF00F = wordXYN (op.extractLsb' 12 4) 0 0 (op.extractLsb' 0 4) := by
    conv_lhs => rw [eq_wordXYN op]
    exact wordXYN_and_mask_low _ _ _ _
  rw [hop]
  refine ⟨fun h => ⟨?_, ?_⟩, fun ⟨hc, hn⟩ => by rw [hc, hn]⟩
  · simpa only [class_wordXYN] using congrArg (BitVec.extractLsb' 12 4) h
  · simpa only [lowNibble_wordXYN] using congrArg (BitVec.extractLsb' 0 4) h

theorem and_class_byte_eq_iff {op : Word} {c : BitVec 4} {kk : Byte} :
    op &&& 0xF0FF = wordXKk c 0 kk ↔ op.extractLsb' 12 4 = c ∧ fieldKk op = kk := by
  have hop : op &&& 0xF0FF = wordXKk (op.extractLsb' 12 4) 0 (fieldKk op) := by
    conv_lhs => rw [eq_wordXKk op]
    exact wordXKk_and_mask_low _ _ _
  rw [hop]
  refine ⟨fun h => ⟨?_, ?_⟩, fun ⟨hc, hk⟩ => by rw [hc, hk]⟩
  · simpa only [class_wordXKk] using congrArg (BitVec.extractLsb' 12 4) h
  · simpa only [fieldKk_wordXKk] using congrArg fieldKk h

section Match
variable {op : Word}

@[simp] theorem rowMatches_rowWord {w : Word} {i : Instr} : rowMatches op (rowWord w i) = true ↔ op = w := by
  rw [rowMatches_iff, rowWord, show (0xFFFF : Word) = BitVec.allOnes 16 from rfl, BitVec.and_allOnes]

@[simp] theorem rowMatches_rowNnn {c : BitVec 4} {h : Addr12 → Instr} :
    rowMatches op (rowNnn c h) = true ↔ op.extractLsb' 12 4 = c :=
  rowMatches_iff.trans and_class_eq_iff

@[simp] theorem rowMatches_rowXKk {c : BitVec 4} {h : Reg → Byte → Instr} :
    rowMatches op (rowXKk c h) = true ↔ op.extractLsb' 12 4 = c :=
  rowMatches_iff.trans and_class_eq_iff

@[simp] theorem rowMatches_rowXYN {c : BitVec 4} {h : Reg → Reg → Count → Instr} :
    rowMatches op (rowXYN c h) = true ↔ op.extractLsb' 12 4 = c :=
  rowMatches_iff.trans and_class_eq_iff

@[simp] theorem rowMatches_rowXY {c n : BitVec 4} {h : Reg → Reg → Instr} :
    rowMatches op (rowXY c n h) = true ↔ op.extractLsb' 12 4 = c ∧ op.extractLsb' 0 4 = n :=
  rowMatches_iff.trans and_class_low_eq_iff

@[simp] theorem rowMatches_rowX {c : BitVec 4} {kk : Byte} {h : Reg → Instr} :
    rowMatches op (rowX c kk h) = true ↔ op.extractLsb' 12 4 = c ∧ fieldKk op = kk :=
  rowMatches_iff.trans and_class_byte_eq_iff

end Match

/-! ## The words no row matches (R88) -/

theorem eq_wordNnn_iff {op : Word} {c : BitVec 4} {nnn : Addr12} :
    op = wordNnn c nnn ↔ op.extractLsb' 12 4 = c ∧ fieldNnn op = nnn := by
  constructor
  · rintro rfl
    exact ⟨class_wordNnn c nnn, fieldNnn_wordNnn c nnn⟩
  · rintro ⟨rfl, rfl⟩
    exact eq_wordNnn op

theorem eq_clsWord_iff {op : Word} : op = 0x00E0 ↔ op.extractLsb' 12 4 = 0x0 ∧ fieldNnn op = 0x0E0 :=
  eq_wordNnn_iff (c := 0x0) (nnn := 0x0E0)
theorem eq_retWord_iff {op : Word} : op = 0x00EE ↔ op.extractLsb' 12 4 = 0x0 ∧ fieldNnn op = 0x0EE :=
  eq_wordNnn_iff (c := 0x0) (nnn := 0x0EE)

theorem dispatch_eq_none_iff {op : Word} : dispatch op = none ↔ ∀ r ∈ dispatchTable, ¬ rowMatches op r = true := by
  rw [dispatch, Option.map_eq_none_iff, List.find?_eq_none]

theorem class_cases (c : BitVec 4) :
    c ∈ [0x0, 0x1, 0x2, 0x3, 0x4, 0x5, 0x6, 0x7, 0x8, 0x9, 0xA, 0xB, 0xC, 0xD, 0xE, 0xF] := by
  revert c; decide

/-- Class 0x8 has an entry for each low nibble outside the list. -/
theorem unregistered_low_iff (n : BitVec 4) :
    n ∈ [0x8, 0x9, 0xA, 0xB, 0xC, 0xD, 0xF] ↔ n ∉ [0x0, 0x1, 0x2, 0x3, 0x4, 0x5, 0x6, 0x7, 0xE] := by
  revert n; decide

/-- Settles O4: with every match read as a condition on the class, nnn and the low part, the two sides agree class by
class. -/
theorem unmatchedWordsByClass : Obligations.UnmatchedWordsByClass := by
  intro op
  rw [dispatch_eq_none_iff, dispatchTable_eq, unregistered_low_iff]
  change _ ↔ _ ∨ _ ∨ _ ∨ _ ∨ (_ ∧ fieldKk op ∉ _) ∨ (_ ∧ fieldKk op ∉ _)
  simp only [List.forall_mem_cons, rowMatches_rowWord, rowMatches_rowNnn, rowMatches_rowXKk, rowMatches_rowXYN,
    rowMatches_rowXY, rowMatches_rowX, ne_eq, eq_clsWord_iff, eq_retWord_iff]
  have hclass := class_cases (op.extractLsb' 12 4)
  generalize op.extractLsb' 12 4 = c at hclass ⊢
  simp only [List.mem_cons, List.not_mem_nil, or_false] at hclass ⊢
  rcases hclass with rfl | rfl | rfl | rfl | rfl | rfl | rfl | rfl | rfl | rfl | rfl | rfl | rfl | rfl | rfl | rfl <;> simp

/-! ## Class 0x0 (R86, R171) -/

theorem wellFormed_sys_iff {nnn : Addr12} : (Instr.sys nnn).wellFormed = true ↔ nnn ≠ 0x0E0 ∧ nnn ≠ 0x0EE := by
  simp only [Instr.wellFormed, Bool.and_eq_true, bne_iff_ne]

theorem dispatch_eq_none_iff_sys_wellFormed {op : Word} (hc : op.extractLsb' 12 4 = 0x0) :
    dispatch op = none ↔ (Instr.sys (fieldNnn op)).wellFormed = true := by
  rw [unmatchedWordsByClass op, wellFormed_sys_iff, ne_eq, ne_eq, eq_clsWord_iff, eq_retWord_iff]
  simp [hc]

theorem encode_sys_of_class {op : Word} (hc : op.extractLsb' 12 4 = 0x0) : encode (.sys (fieldNnn op)) = op :=
  (eq_wordNnn_iff.mpr ⟨hc, rfl⟩).symm

/-! ## Decoding a word built from fields -/

section Decode
variable {c : BitVec 4}

theorem decode_wordNnn {h : Addr12 → Instr} (hm : rowNnn c h ∈ dispatchTable) (nnn : Addr12) :
    decode (wordNnn c nnn) = .instr (h nnn) := by
  rw [decode_of_row hm (rowMatches_rowNnn.mpr (class_wordNnn c nnn))]
  simp only [rowNnn, fieldNnn_wordNnn]

theorem decode_wordXKk {h : Reg → Byte → Instr} (hm : rowXKk c h ∈ dispatchTable) (x : Reg) (kk : Byte) :
    decode (wordXKk c x kk) = .instr (h x kk) := by
  rw [decode_of_row hm (rowMatches_rowXKk.mpr (class_wordXKk c x kk))]
  simp only [rowXKk, fieldX_wordXKk, fieldKk_wordXKk]

theorem decode_wordXYN {h : Reg → Reg → Count → Instr} (hm : rowXYN c h ∈ dispatchTable) (x y : Reg) (n : Count) :
    decode (wordXYN c x y (BitVec.ofFin (w := 4) n)) = .instr (h x y n) := by
  rw [decode_of_row hm (rowMatches_rowXYN.mpr (class_wordXYN c x y _))]
  simp only [rowXYN, fieldX_wordXYN, fieldY_wordXYN, fieldN_wordXYN]

theorem decode_wordXY {n : BitVec 4} {h : Reg → Reg → Instr} (hm : rowXY c n h ∈ dispatchTable) (x y : Reg) :
    decode (wordXYN c x y n) = .instr (h x y) := by
  rw [decode_of_row hm (rowMatches_rowXY.mpr ⟨class_wordXYN c x y n, lowNibble_wordXYN c x y n⟩)]
  simp only [rowXY, fieldX_wordXYN, fieldY_wordXYN]

theorem decode_wordX {kk : Byte} {h : Reg → Instr} (hm : rowX c kk h ∈ dispatchTable) (x : Reg) :
    decode (wordXKk c x kk) = .instr (h x) := by
  rw [decode_of_row hm (rowMatches_rowX.mpr ⟨class_wordXKk c x kk, fieldKk_wordXKk c x kk⟩)]
  simp only [rowX, fieldX_wordXKk]

end Decode

theorem decode_encode_sys {nnn : Addr12} (h : (Instr.sys nnn).wellFormed = true) :
    decode (encode (.sys nnn)) = .instr (.sys nnn) := by
  have hc : (encode (.sys nnn)).extractLsb' 12 4 = 0x0 := class_wordNnn 0x0 nnn
  have hf : fieldNnn (encode (.sys nnn)) = nnn := fieldNnn_wordNnn 0x0 nnn
  have hnone : dispatch (encode (.sys nnn)) = none := (dispatch_eq_none_iff_sys_wellFormed hc).mpr (hf.symm ▸ h)
  rw [decode_of_no_row hnone, if_pos hc, hf]

theorem decode_encode {i : Instr} (h : i.wellFormed = true) : decode (encode i) = .instr i := by
  cases i with
  | cls | ret => rfl
  | jp nnn | call nnn | ldI nnn | jpV0 nnn => exact decode_wordNnn (by simp [dispatchTable_eq]) nnn
  | seImm x kk | sneImm x kk | ldImm x kk | addImm x kk | rnd x kk =>
    exact decode_wordXKk (by simp [dispatchTable_eq]) x kk
  | seReg x y | sneReg x y | ldReg x y | orReg x y | andReg x y | xorReg x y | addReg x y | sub x y | shr x y | subn x y
  | shl x y => exact decode_wordXY (by simp [dispatchTable_eq]) x y
  | drw x y n => exact decode_wordXYN (by simp [dispatchTable_eq]) x y n
  | skp x | sknp x | ldvDt x | ldvKey x | lddt x | ldSt x | addI x | ldF x | ldB x | ldiMem x | ldvMem x =>
    exact decode_wordX (by simp [dispatchTable_eq]) x
  | sys nnn => exact decode_encode_sys h

/-! ## Encoding what a row decodes (R82) -/

/-- The row's handler loses nothing of a word the row matches: the instruction has that word, and is well formed. -/
def DispatchRow.Faithful (r : DispatchRow) : Prop :=
  ∀ op, rowMatches op r = true → encode (r.handler op) = op ∧ (r.handler op).wellFormed = true

section Faithful
variable {c : BitVec 4}

theorem rowWord_faithful {w : Word} {i : Instr} (hi : encode i = w ∧ i.wellFormed = true) : (rowWord w i).Faithful := by
  intro op hop
  obtain rfl := rowMatches_rowWord.mp hop
  exact hi

theorem rowNnn_faithful {h : Addr12 → Instr} (hi : ∀ nnn, encode (h nnn) = wordNnn c nnn ∧ (h nnn).wellFormed = true) :
    (rowNnn c h).Faithful := by
  intro op hop
  obtain rfl := rowMatches_rowNnn.mp hop
  exact (hi _).imp_left fun he => he.trans (eq_wordNnn op).symm

theorem rowXKk_faithful {h : Reg → Byte → Instr}
    (hi : ∀ x kk, encode (h x kk) = wordXKk c x kk ∧ (h x kk).wellFormed = true) : (rowXKk c h).Faithful := by
  intro op hop
  obtain rfl := rowMatches_rowXKk.mp hop
  exact (hi _ _).imp_left fun he => he.trans (eq_wordXKk op).symm

theorem rowXYN_faithful {h : Reg → Reg → Count → Instr}
    (hi : ∀ x y n, encode (h x y n) = wordXYN c x y (BitVec.ofFin (w := 4) n) ∧ (h x y n).wellFormed = true) :
    (rowXYN c h).Faithful := by
  intro op hop
  obtain rfl := rowMatches_rowXYN.mp hop
  exact (hi _ _ _).imp_left fun he => he.trans (eq_wordXYN op).symm

theorem rowXY_faithful {n : BitVec 4} {h : Reg → Reg → Instr}
    (hi : ∀ x y, encode (h x y) = wordXYN c x y n ∧ (h x y).wellFormed = true) : (rowXY c n h).Faithful := by
  intro op hop
  obtain ⟨rfl, rfl⟩ := rowMatches_rowXY.mp hop
  exact (hi _ _).imp_left fun he => he.trans (eq_wordXYN op).symm

theorem rowX_faithful {kk : Byte} {h : Reg → Instr}
    (hi : ∀ x, encode (h x) = wordXKk c x kk ∧ (h x).wellFormed = true) : (rowX c kk h).Faithful := by
  intro op hop
  obtain ⟨rfl, rfl⟩ := rowMatches_rowX.mp hop
  exact (hi _).imp_left fun he => he.trans (eq_wordXKk op).symm

end Faithful

/-- Each entry by the rule of its form: that its instruction is encoded in that form is the definition of `encode`. -/
theorem dispatchTable_faithful : ∀ r ∈ dispatchTable, r.Faithful := by
  simp [dispatchTable_eq, rowWord_faithful, rowNnn_faithful, rowXKk_faithful, rowXYN_faithful, rowXY_faithful,
    rowX_faithful, encode, Instr.wellFormed]

theorem dispatch_eq_some_iff {op : Word} {i : Instr} :
    dispatch op = some i ↔ ∃ r ∈ dispatchTable, rowMatches op r = true ∧ r.handler op = i := by
  constructor
  · intro h
    obtain ⟨r, hr, hi⟩ := Option.map_eq_some_iff.mp h
    exact ⟨r, List.mem_of_find?_eq_some hr, List.find?_some hr, hi⟩
  · rintro ⟨r, hm, hr, rfl⟩
    exact dispatch_of_row hm hr

theorem encode_of_decode {op : Word} {i : Instr} (h : decode op = .instr i) : encode i = op ∧ i.wellFormed = true := by
  cases hd : dispatch op with
  | some j =>
    obtain ⟨r, hm, hr, rfl⟩ := dispatch_eq_some_iff.mp hd
    obtain rfl := Decoded.instr.inj ((decode_of_row hm hr).symm.trans h)
    exact dispatchTable_faithful r hm op hr
  | none =>
    rw [decode_of_no_row hd] at h
    split at h
    next hc =>
      obtain rfl := Decoded.instr.inj h
      exact ⟨encode_sys_of_class hc, (dispatch_eq_none_iff_sys_wellFormed hc).mp hd⟩
    next => cases h

/-! ## Any order of the entries (R85) -/

theorem filter_rowMatches_length_le (op : Word) : (dispatchTable.filter (rowMatches op)).length ≤ 1 := by
  have hdiffer := rows_differ.filter (rowMatches op)
  have hmatch : ∀ r ∈ dispatchTable.filter (rowMatches op), rowMatches op r = true := fun r hr => List.of_mem_filter hr
  match dispatchTable.filter (rowMatches op), hdiffer, hmatch with
  | [], _, _ => exact Nat.zero_le _
  | [_], _, _ => exact Nat.le_refl _
  | q :: r :: _, hdiffer, hmatch =>
    have hqr : rowsDiffer q r = true := List.rel_of_pairwise_cons hdiffer List.mem_cons_self
    have hq := not_rowMatches_of_rowsDiffer hqr (hmatch r (by simp))
    exact absurd (hmatch q List.mem_cons_self) (ne_true_of_eq_false hq)

theorem find?_perm_dispatchTable {rows : List DispatchRow} (h : rows.Perm dispatchTable) (op : Word) :
    (rows.find? (rowMatches op)).map (fun row => row.handler op) = dispatch op := by
  cases hf : rows.find? (rowMatches op) with
  | some r => exact (dispatch_of_row (h.mem_iff.mp (List.mem_of_find?_eq_some hf)) (List.find?_some hf)).symm
  | none => exact (dispatch_eq_none_iff.mpr fun r hr => List.find?_eq_none.mp hf r (h.mem_iff.mpr hr)).symm

end Sys2Proof

namespace Sys2Proof.Machine

/-! ## A step by its word (R87, R90) -/

theorem step_of_decode {s : State} {i : Instr} (hrun : s.halted = false) (hd : decode (fetchWord s) = .instr i) :
    step s = exec i (beginStep s) := by
  rw [step, fetchDecode_run.mpr ⟨hrun, hd, rfl⟩]

theorem step_of_no_row {s : State} (hrun : s.halted = false) (hd : dispatch (fetchWord s) = none) :
    step s = .fault (.unimplementedOpcode (fetchWord s)) := by
  have hdecode := decode_of_no_row hd
  split at hdecode
  next hc =>
    calc step s = exec (.sys (fieldNnn (fetchWord s))) (beginStep s) := step_of_decode hrun hdecode
      _ = .fault (.unimplementedOpcode (encode (.sys (fieldNnn (fetchWord s))))) := rfl
      _ = .fault (.unimplementedOpcode (fetchWord s)) := by rw [encode_sys_of_class hc]
  next => simp only [step, fetchDecode_stop.mpr (.inr ⟨hrun, _, hdecode, rfl⟩), raiseFatal]

/-! ## The event of a step (R91) -/

/-- The event each instruction leaves, from the state before the step. -/
def eventAfterStep (i : Instr) (s : State) : Event :=
  match i with
  | .drw _ _ _ => .draw
  | .ldvKey _ => if ∀ k, s.pressed k = false then .waitForKey else .none
  | _ => .none

/-- No event stands before the meaning runs, and only DXYN and FX0A write one. -/
theorem exec_eventAfterStep {i : Instr} {s t : State} (h : exec i (beginStep s) = .next t) :
    t.event = eventAfterStep i s := by
  cases i with
  | ldvKey x =>
    obtain ⟨k, hk, rfl⟩ | ⟨hnone, rfl⟩ := execLdvKey_next h
    · exact (if_neg fun hall => ne_false_of_eq_true hk (hall k)).symm
    · exact (if_pos hnone).symm
  | ret => obtain ⟨rest, a, -, rfl⟩ := execRet_next h; rfl
  | call nnn => obtain ⟨-, rfl⟩ := execCall_next h; rfl
  | skp x => obtain ⟨k, -, rfl⟩ := execSkp_next h; exact State.skipIf_event _ _
  | sknp x => obtain ⟨k, -, rfl⟩ := execSknp_next h; exact State.skipIf_event _ _
  | seImm | sneImm | seReg | sneReg => cases h; exact State.skipIf_event _ _
  | ldF x => obtain rfl := execLdF_next h; rfl
  | ldvMem x => obtain rfl := execLdvMem_next h; simp only [loadRegs, State.advanceI_event, State.setRegsUpTo_event]; rfl
  | sys nnn => cases h
  | _ => cases h; rfl

/-! ## Assembler lines (R94) -/

theorem assemble_asmLine {i : Instr} (h : i.wellFormed = true) : assemble (asmLine i) = some i := by
  cases i with
  | sys nnn => simp [asmLine, assemble, h]
  | jp nnn | call nnn | ldI nnn | jpV0 nnn => exact withImm_toNat nnn _
  | seImm x kk | sneImm x kk | ldImm x kk | addImm x kk | rnd x kk => exact withImm_toNat kk _
  | drw x y n => exact withImm_fin n fun m => .drw x y m.toFin
  | _ => rfl

/-! ## The statements -/

/-- Settles O1: one rule for each form of encoding finds the entry that matches the word; `sys` has none. -/
theorem decodeOfEncodeIsTheInstruction : Obligations.DecodeOfEncodeIsTheInstruction :=
  fun _ h => decode_encode h

/-- Settles O2: the entry that decoded the word loses no bit of it, and a word without one is `sys` in class 0x0 alone. -/
theorem encodeOfDecodeIsTheWord : Obligations.EncodeOfDecodeIsTheWord :=
  fun _ _ h => encode_of_decode h

/-- Settles O3: two entries differ on a bit that both masks hold, and an entry that matches decides the result. -/
theorem dispatchOrderNeverMatters : Obligations.DispatchOrderNeverMatters :=
  fun op => ⟨filter_rowMatches_length_le op, fun _ h => find?_perm_dispatchTable h op⟩

/-- Settles O8: such a word is `sys`, whose meaning is this fault, or is rejected at the fetch with the same fault. -/
theorem unmatchedWordIsFatal : Obligations.UnmatchedWordIsFatal := by
  intro s hrun hrows
  have hstep := step_of_no_row hrun (dispatch_eq_none_iff.mpr fun r hr => ne_true_of_eq_false (hrows r hr))
  exact ⟨hstep, congrArg (settle s) hstep⟩

/-- Settles O12: what each meaning leaves in the event decides both clauses. -/
theorem eventsOfAStep : Obligations.EventsOfAStep := by
  intro s t i h hd
  rw [exec_eventAfterStep (exec_of_step_next h hd).2]
  cases i with
  | ldvKey x => by_cases hnone : ∀ k, s.pressed k = false <;> simp [eventAfterStep, hnone]
  | _ => simp [eventAfterStep]

/-- Settles O5: a field is the word shifted right and cut to its width. -/
theorem fieldsAreUnsignedBitFields : Obligations.FieldsAreUnsignedBitFields := by
  intro op
  simp [fieldX, fieldY, fieldN, fieldKk, fieldNnn, zextAddr_toNat, Nat.shiftRight_eq_div_pow]

/-- Settles O6: the decoder computes on each of the eighteen words. -/
theorem wordsOfEachClassDecode : Obligations.WordsOfEachClassDecode := by
  unfold Obligations.WordsOfEachClassDecode
  decide

/-- Settles O7: the word fetched is the two bytes at PC and PC + 1, and the begun state has the advanced PC. -/
theorem stepRunsTheDecodedInstruction : Obligations.StepRunsTheDecodedInstruction :=
  fun _ hrun => ⟨fun _ hd => step_of_decode hrun hd, fun hd => step_of_no_row hrun hd⟩

/-- Settles O59: neither meaning reads its y. -/
theorem shiftsIgnoreTheYField : Obligations.ShiftsIgnoreTheYField :=
  fun _ _ _ _ => ⟨rfl, rfl⟩

/-- Settles O60: the operands of a line hold every field of the instruction, and an immediate reads back. -/
theorem assemblerLinesReadBack : Obligations.AssemblerLinesReadBack :=
  ⟨fun _ h => assemble_asmLine h, fun _ => ⟨rfl, rfl⟩⟩

end Sys2Proof.Machine

/-! # Family 40_alu: loads, logic, arithmetic and the random byte

How frames compose, what a register write leaves unchanged, and the flags as numbers; then the statements about classes 6,
7, 8 and C (40_alu.md). -/

namespace Sys2Proof.Machine

/-! ## Frames -/

theorem ChangesOnly.mono {P Q : Part → Prop} {s t : State} (h : ChangesOnly P s t) (hPQ : ∀ p, P p → Q p) :
    ChangesOnly Q s t :=
  fun p hp => h p fun hP => hp (hPQ p hP)

theorem Part.Same.trans {p : Part} {s t u : State} (hst : p.Same s t) (htu : p.Same t u) : p.Same s u := by
  cases p <;> exact Eq.trans htu hst

theorem ChangesOnly.trans {P Q : Part → Prop} {s t u : State} (hst : ChangesOnly P s t) (htu : ChangesOnly Q t u) :
    ChangesOnly (fun p => P p ∨ Q p) s u :=
  fun p hp => (hst p fun hP => hp (.inl hP)).trans (htu p fun hQ => hp (.inr hQ))

theorem changesOnly_setReg (s : State) (x : Reg) (b : Byte) : ChangesOnly (fun p => p = .reg x) s (s.setReg x b) := by
  intro p hp
  cases p with
  | reg r => exact s.reg_setReg_ne (fun h => hp (congrArg Part.reg h)) b
  | _ => rfl

theorem changesOnly_setResultFlag (s : State) (x : Reg) (b : Byte) (c : Bool) :
    ChangesOnly (fun p => p = .reg x ∨ p = .reg 15) s (s.setResultFlag x b c) :=
  (changesOnly_setReg s x b).trans (changesOnly_setReg (s.setReg x b) 15 (flagByte c))

theorem changesOnly_countDraw (s : State) : ChangesOnly (fun p => p = .draws) s s.countDraw := by
  intro p hp
  cases p with
  | draws => exact absurd rfl hp
  | _ => rfl

/-! ## Instructions that end in one register write -/

theorem writesRegister_of_exec {i : Instr} {s : State} {x : Reg} {b b' : Byte}
    (h : exec i s = .next (s.setReg x b)) (hb : b = b') : WritesRegister i s x b' :=
  ⟨_, h, (s.reg_setReg_self x b).trans hb, changesOnly_setReg s x b⟩

theorem WritesRegister.keeps_reg {i : Instr} {s : State} {x r : Reg} {b : Byte} (h : WritesRegister i s x b)
    (hr : x ≠ r) : Completes i s (fun t => t.reg r = s.reg r) := by
  obtain ⟨t, hexec, -, hframe⟩ := h
  exact ⟨t, hexec, hframe (.reg r) fun h => hr (Part.reg.inj h).symm⟩

/-! ## Instructions that end in a result write and then a flag write (40_alu.md R121, R122) -/

theorem setsFlag_of_exec {i : Instr} {s : State} {x : Reg} {b : Byte} {c : Bool} {flag : Prop}
    (h : exec i s = .next (s.setResultFlag x b c)) (hc : c = true ↔ flag) : SetsFlag i s flag := by
  have hvf : (s.setResultFlag x b c).reg 15 = flagByte c := by rw [State.reg_setResultFlag, if_pos rfl]
  exact ⟨_, h, fun hf => hvf.trans (if_pos (hc.mpr hf)), fun hf => hvf.trans (if_neg (mt hc.mp hf))⟩

theorem writesResult_of_exec {i : Instr} {s : State} {x : Reg} {b : Byte} {c : Bool} {n : Nat}
    (h : exec i s = .next (s.setResultFlag x b c)) (hb : b.toNat = n) : WritesResult i s x n := by
  refine ⟨_, h, fun hx => ?_, changesOnly_setResultFlag s x b c⟩
  rw [State.reg_setResultFlag, if_neg hx, if_pos rfl, hb]

/-! ## The flags as facts about numbers (40_alu.md R121) -/

theorem carryFlag_iff (a b : Byte) : carryFlag a b = true ↔ a.toNat + b.toNat > 0xFF := decide_eq_true_iff

theorem notBorrowFlag_iff (a b : Byte) : notBorrowFlag a b = true ↔ a.toNat ≥ b.toNat := decide_eq_true_iff

theorem shrFlag_iff (a : Byte) : shrFlag a = true ↔ a.toNat % 2 = 1 := by
  simp [shrFlag, BitVec.getLsbD, Nat.testBit_zero]

theorem shlFlag_iff (a : Byte) : shlFlag a = true ↔ a.toNat / 128 = 1 := by
  have hlt := a.isLt
  simp only [shlFlag, BitVec.getLsbD, Nat.testBit_eq_decide_div_mod_eq, decide_eq_true_iff]
  omega

/-! ## The results as numbers (40_alu.md R126 to R135) -/

theorem eq_ofNat_of_toNat {b : Byte} {n : Nat} (h : b.toNat = n) : b = BitVec.ofNat 8 n :=
  (BitVec.toNat_eq_nat.mp h).2

theorem sub_toNat_wrapped (a b : Byte) : (a - b).toNat = (256 + a.toNat - b.toNat) % 256 := by
  have hb := b.isLt
  rw [BitVec.toNat_sub]
  omega

theorem shiftLeft_one_toNat (a : Byte) : (a <<< 1).toNat = 2 * a.toNat % 256 := by
  rw [BitVec.toNat_shiftLeft, Nat.shiftLeft_eq, Nat.mul_comm]

theorem ushiftRight_one_toNat (a : Byte) : (a >>> 1).toNat = a.toNat / 2 :=
  (BitVec.toNat_ushiftRight a 1).trans (Nat.shiftRight_one _)

/-! ## The statements -/

/-- Settles O25: each of the six is one register write, of the byte the rule names as a number. -/
theorem loadsAndLogicWriteOneRegister : Obligations.LoadsAndLogicWriteOneRegister := by
  intro s x y kk
  exact ⟨writesRegister_of_exec rfl rfl, writesRegister_of_exec rfl (eq_ofNat_of_toNat (BitVec.toNat_add _ _)),
    writesRegister_of_exec rfl rfl, writesRegister_of_exec rfl (eq_ofNat_of_toNat (BitVec.toNat_or _ _)),
    writesRegister_of_exec rfl (eq_ofNat_of_toNat (BitVec.toNat_and _ _)),
    writesRegister_of_exec rfl (eq_ofNat_of_toNat (BitVec.toNat_xor _ _))⟩

/-- Settles O26: the flag write comes last, so VF holds the flag; a logical instruction writes its destination alone. -/
theorem flagsOfArithmeticAndLogic : Obligations.FlagsOfArithmeticAndLogic := by
  intro s x y
  refine ⟨⟨setsFlag_of_exec rfl (carryFlag_iff _ _), setsFlag_of_exec rfl (notBorrowFlag_iff _ _),
    setsFlag_of_exec rfl (notBorrowFlag_iff _ _), setsFlag_of_exec rfl (shlFlag_iff _),
    setsFlag_of_exec rfl (shrFlag_iff _)⟩, fun hx => ?_⟩
  obtain ⟨-, -, -, hor, hand, hxor⟩ := loadsAndLogicWriteOneRegister s x y 0
  simp [hor.keeps_reg hx, hand.keeps_reg hx, hxor.keeps_reg hx]

/-- Settles O27: each of the five is a result write and a flag write, and the result as a number is the rule's. -/
theorem arithmeticWritesTheWrappedResult : Obligations.ArithmeticWritesTheWrappedResult :=
  fun _ _ _ =>
    ⟨writesResult_of_exec rfl (BitVec.toNat_add _ _), writesResult_of_exec rfl (sub_toNat_wrapped _ _),
      writesResult_of_exec rfl (sub_toNat_wrapped _ _), writesResult_of_exec rfl (shiftLeft_one_toNat _),
      writesResult_of_exec rfl (ushiftRight_one_toNat _)⟩

/-- Settles O28: whatever byte is drawn, the draw is counted and then one register is written. -/
theorem randomByteIsMasked : Obligations.RandomByteIsMasked :=
  fun s x kk => ⟨rfl, fun r => ⟨s.countDraw.reg_setReg_self x (r &&& kk), rfl,
    ((changesOnly_countDraw s).trans (changesOnly_setReg s.countDraw x (r &&& kk))).mono fun _ => Or.symm⟩⟩

end Sys2Proof.Machine

/-! # Family 41_display: clearing the screen and drawing a sprite

A sprite is the list of pixels its bits land on, each of them once, and DXYN draws that list pixel by pixel; then the
statements (41_display.md). -/

namespace Sys2Proof.Machine

/-! ## Frames of the display's writes -/

theorem changesOnly_setFb (s : State) (f : Framebuffer) : ChangesOnly (fun p => ∃ r c, p = .pixel r c) s (s.setFb f) := by
  intro p hp
  cases p with
  | pixel r c => exact absurd ⟨r, c, rfl⟩ hp
  | _ => rfl

theorem changesOnly_setEvent (s : State) (e : Event) : ChangesOnly (fun p => p = .event) s (s.setEvent e) := by
  intro p hp
  cases p with
  | event => exact absurd rfl hp
  | _ => rfl

theorem changesOnly_advancePc (s : State) : ChangesOnly (fun p => p = .pc) s s.advancePc := by
  intro p hp
  cases p with
  | pc => exact absurd rfl hp
  | _ => rfl

theorem changesOnly_beginStep (s : State) : ChangesOnly (fun p => p = .event ∨ p = .pc) s (beginStep s) :=
  (changesOnly_setEvent s .none).trans (changesOnly_advancePc (s.setEvent .none))

/-! ## Drawing a list of pixels -/

theorem Framebuffer.pixel_toggle_self (f : Framebuffer) (r : Fin 32) (c : Fin 64) :
    (f.toggle r c).pixel r c = !f.pixel r c :=
  (f.pixel_toggle r r c c).trans (if_pos ⟨rfl, rfl⟩)

theorem Framebuffer.pixel_toggle_of_ne (f : Framebuffer) {p q : Fin 32 × Fin 64} (h : q ≠ p) :
    (f.toggle p.1 p.2).pixel q.1 q.2 = f.pixel q.1 q.2 :=
  (f.pixel_toggle p.1 q.1 p.2 q.2).trans (if_neg fun hpq => h (Prod.ext hpq.1 hpq.2))

/-- XOR a sprite bit into each pixel of the list, in its order. -/
def blitPixels (l : List (Fin 32 × Fin 64)) (acc : Blit) : Blit := l.foldl (fun acc p => blitPixel p.1 p.2 acc) acc

theorem blitPixels_pixel_of_not_mem {l : List (Fin 32 × Fin 64)} {q : Fin 32 × Fin 64} (hq : q ∉ l) (acc : Blit) :
    (blitPixels l acc).1.pixel q.1 q.2 = acc.1.pixel q.1 q.2 := by
  induction l generalizing acc with
  | nil => rfl
  | cons p l ih =>
    obtain ⟨hqp, hql⟩ := not_or.mp (mt List.mem_cons.mpr hq)
    exact (ih hql _).trans (acc.1.pixel_toggle_of_ne hqp)

/-- A pixel listed once is toggled: what stands before and after it in the list leaves it alone. -/
theorem blitPixels_pixel_of_mem {l : List (Fin 32 × Fin 64)} (hl : l.Nodup) {q : Fin 32 × Fin 64} (hq : q ∈ l)
    (acc : Blit) : (blitPixels l acc).1.pixel q.1 q.2 = !acc.1.pixel q.1 q.2 := by
  induction l generalizing acc with
  | nil => cases hq
  | cons p l ih =>
    obtain ⟨hpl, hl⟩ := List.nodup_cons.mp hl
    obtain rfl | hql := List.mem_cons.mp hq
    · exact (blitPixels_pixel_of_not_mem hpl _).trans (acc.1.pixel_toggle_self _ _)
    · exact (ih hl hql _).trans (congrArg _ (acc.1.pixel_toggle_of_ne (ne_of_mem_of_not_mem hql hpl)))

/-- Pixels listed once each are tested as they stand before the first of them is drawn. -/
theorem blitPixels_collision {l : List (Fin 32 × Fin 64)} (hl : l.Nodup) (acc : Blit) :
    (blitPixels l acc).2 = true ↔ acc.2 = true ∨ ∃ q ∈ l, acc.1.pixel q.1 q.2 = true := by
  induction l generalizing acc with
  | nil => simp [blitPixels]
  | cons p l ih =>
    obtain ⟨hpl, hl⟩ := List.nodup_cons.mp hl
    have hrest : (∃ q ∈ l, (acc.1.toggle p.1 p.2).pixel q.1 q.2 = true) ↔ ∃ q ∈ l, acc.1.pixel q.1 q.2 = true :=
      exists_congr fun q => and_congr_right fun hql => by
        rw [acc.1.pixel_toggle_of_ne (ne_of_mem_of_not_mem hql hpl)]
    calc (blitPixels l (blitPixel p.1 p.2 acc)).2 = true
      _ ↔ (acc.2 || acc.1.pixel p.1 p.2) = true ∨ ∃ q ∈ l, acc.1.pixel q.1 q.2 = true :=
        (ih hl _).trans (or_congr_right hrest)
      _ ↔ acc.2 = true ∨ ∃ q ∈ p :: l, acc.1.pixel q.1 q.2 = true := by simp [or_assoc]

/-! ## The pixels a sprite's bits land on (41_display.md R153, R154) -/

/-- The pixel that the bit at sprite row and column `rc` lands on. -/
def spritePixel (cx cy : Byte) (rc : Nat × Nat) : Fin 32 × Fin 64 := (spriteRow cy rc.1, spriteCol cx rc.2)

/-- The pixels the sprite's bits that are on land on, in the order they are drawn. -/
def spritePixels (sprite : Nat → Byte) (cx cy : Byte) (n : Nat) : List (Fin 32 × Fin 64) :=
  ((List.range n ×ˢ List.range 8).filter fun rc => (sprite rc.1).getLsbD (7 - rc.2)).map (spritePixel cx cy)

theorem blitSprite_eq_blitPixels (sprite : Nat → Byte) (cx cy : Byte) (n : Nat) (f : Framebuffer) :
    blitSprite sprite cx cy n f = blitPixels (spritePixels sprite cx cy n) (f, false) := by
  simp only [blitSprite, blitRow, blitPixels, spritePixels, spritePixel, List.foldl_map, List.foldl_filter,
    SProd.sprod, List.product, List.foldl_flatMap]

/-- A sprite no larger than the screen does not wrap onto itself. -/
theorem spritePixel_inj {cx cy : Byte} {p q : Nat × Nat} (hp : p.1 < 32 ∧ p.2 < 64) (hq : q.1 < 32 ∧ q.2 < 64)
    (h : spritePixel cx cy p = spritePixel cx cy q) : p = q := by
  obtain ⟨hrow, hcol⟩ := Prod.mk.inj h
  have hrow : (cy.toNat + p.1) % 32 = (cy.toNat + q.1) % 32 := congrArg Fin.val hrow
  have hcol : (cx.toNat + p.2) % 64 = (cx.toNat + q.2) % 64 := congrArg Fin.val hcol
  exact Prod.ext (by omega) (by omega)

theorem spritePixels_nodup (sprite : Nat → Byte) (cx cy : Byte) {n : Nat} (hn : n ≤ 32) :
    (spritePixels sprite cx cy n).Nodup := by
  have hbound : ∀ rc ∈ (List.range n ×ˢ List.range 8).filter fun rc => (sprite rc.1).getLsbD (7 - rc.2),
      rc.1 < 32 ∧ rc.2 < 64 := by
    intro rc h
    obtain ⟨hrow, hcol⟩ := List.mem_product.mp (List.mem_of_mem_filter h)
    exact ⟨(List.mem_range.mp hrow).trans_le hn, (List.mem_range.mp hcol).trans (by decide)⟩
  exact ((List.nodup_range.product List.nodup_range).filter _).map_on fun p hp q hq =>
    spritePixel_inj (hbound p hp) (hbound q hq)

theorem mem_spritePixels_iff_spriteCovers {s : State} {x y : Reg} {n : Count} {r : Fin 32} {c : Fin 64} :
    (r, c) ∈ spritePixels (spriteByte s) (s.reg x) (s.reg y) n.val ↔ SpriteCovers s x y n r c := by
  have hpixel (row col : Nat) : spritePixel (s.reg x) (s.reg y) (row, col) = (r, c) ↔
      r.val = ((s.reg y).toNat + row) % 32 ∧ c.val = ((s.reg x).toNat + col) % 64 := by
    simp [spritePixel, spriteRow, spriteCol, Fin.ext_iff, eq_comm]
  simp only [spritePixels, List.mem_map, List.mem_filter, Prod.exists, List.mem_product, List.mem_range, hpixel,
    SpriteCovers, spriteByte]
  constructor
  · rintro ⟨row, col, ⟨⟨hrow, hcol⟩, hbit⟩, hr, hc⟩
    exact ⟨row, hrow, col, hcol, hr, hc, hbit⟩
  · rintro ⟨row, hrow, col, hcol, hr, hc, hbit⟩
    exact ⟨row, col, ⟨⟨hrow, hcol⟩, hbit⟩, hr, hc⟩

/-- What a sprite covers depends on the two coordinates, on I and on the bytes of memory. -/
theorem spriteCovers_congr {s t : State} {x y : Reg} (hx : t.reg x = s.reg x) (hy : t.reg y = s.reg y) (hi : t.i = s.i)
    (hmem : ∀ a, readByte t.mem a = readByte s.mem a) (n : Count) (r : Fin 32) (c : Fin 64) :
    SpriteCovers t x y n r c ↔ SpriteCovers s x y n r c := by
  simp only [SpriteCovers, indexAddress, hx, hy, hi, hmem]

/-! ## What DXYN draws and changes (41_display.md R152 to R157) -/

section Drw

variable {s : State} {x y : Reg} {n : Count}

theorem spritePixels_nodup_of_drw : (spritePixels (spriteByte s) (s.reg x) (s.reg y) n.val).Nodup :=
  spritePixels_nodup _ _ _ (n.isLt.le.trans (by decide))

theorem drwBlit_pixel_of_covers {r : Fin 32} {c : Fin 64} (h : SpriteCovers s x y n r c) :
    (drwBlit x y n s).1.pixel r c = !s.fb.pixel r c := by
  rw [drwBlit, blitSprite_eq_blitPixels]
  exact blitPixels_pixel_of_mem spritePixels_nodup_of_drw (mem_spritePixels_iff_spriteCovers.mpr h) _

theorem drwBlit_pixel_of_not_covers {r : Fin 32} {c : Fin 64} (h : ¬ SpriteCovers s x y n r c) :
    (drwBlit x y n s).1.pixel r c = s.fb.pixel r c := by
  rw [drwBlit, blitSprite_eq_blitPixels]
  exact blitPixels_pixel_of_not_mem (mt mem_spritePixels_iff_spriteCovers.mp h) _

theorem drwBlit_collision :
    (drwBlit x y n s).2 = true ↔ ∃ r c, SpriteCovers s x y n r c ∧ s.fb.pixel r c = true := by
  rw [drwBlit, blitSprite_eq_blitPixels, blitPixels_collision spritePixels_nodup_of_drw]
  simp [mem_spritePixels_iff_spriteCovers]

theorem vf_of_exec_drw {t : State} (h : exec (.drw x y n) s = .next t) : t.reg 15 = flagByte (drwBlit x y n s).2 := by
  cases h
  exact State.reg_setReg_self _ 15 _

theorem changesOnly_of_exec_drw {t : State} (h : exec (.drw x y n) s = .next t) :
    ChangesOnly (fun p => (∃ r c, p = .pixel r c) ∨ p = .reg 15 ∨ p = .event) s t := by
  cases h
  exact (((changesOnly_setFb s _).trans (changesOnly_setReg _ 15 _)).trans (changesOnly_setEvent _ .draw)).mono
    fun _ => or_assoc.mp

end Drw

/-! ## The statements -/

/-- Settles O30: the sprite's bits land on pairwise different pixels, so drawing them one by one toggles each once. -/
theorem drawIsPointwiseXor : Obligations.DrawIsPointwiseXor := by
  intro s x y n
  exact ⟨_, rfl, fun _ _ => drwBlit_pixel_of_covers, fun _ _ => drwBlit_pixel_of_not_covers,
    fun h => (vf_of_exec_drw rfl).trans (if_pos (drwBlit_collision.mpr h)),
    fun h => (vf_of_exec_drw rfl).trans (if_neg (mt drwBlit_collision.mp h)), rfl, changesOnly_of_exec_drw rfl⟩

/-- Settles O31: the first draw leaves the coordinates, I and memory, so the second covers the same pixels. -/
theorem drawingTwiceRestoresThePicture : Obligations.DrawingTwiceRestoresThePicture := by
  intro s t u x y n hx hy ht hu
  obtain ⟨t', ht', hon, hoff, -, -, -, hframe⟩ := drawIsPointwiseXor s x y n
  obtain rfl := Host.Outcome.next.inj (ht.symm.trans ht')
  obtain ⟨u', hu', hon', hoff', hvf1, hvf0, -, -⟩ := drawIsPointwiseXor (beginStep t) x y n
  obtain rfl := Host.Outcome.next.inj (hu.symm.trans hu')
  have hcovers : ∀ r c, SpriteCovers (beginStep t) x y n r c ↔ SpriteCovers s x y n r c :=
    spriteCovers_congr (hframe (.reg x) (by simpa using hx)) (hframe (.reg y) (by simpa using hy))
      (hframe .index (by simp)) (fun a => hframe (.byteAt a) (by simp)) n
  have hcollides : (∃ r c, SpriteCovers (beginStep t) x y n r c ∧ (beginStep t).fb.pixel r c = true) ↔
      ∃ r c, SpriteCovers s x y n r c ∧ s.fb.pixel r c = false :=
    exists_congr fun r => exists_congr fun c => (and_congr_left' (hcovers r c)).trans <|
      and_congr_right fun h => by rw [beginStep_fb, hon r c h, Bool.not_eq_true']
  constructor
  · refine Framebuffer.ext_pixel fun r c => ?_
    by_cases h : SpriteCovers s x y n r c
    · rw [hon' r c ((hcovers r c).mpr h), beginStep_fb, hon r c h, Bool.not_not]
    · rw [hoff' r c (mt (hcovers r c).mp h), beginStep_fb, hoff r c h]
  · rw [← hcollides]
    exact ⟨fun h => by_contra fun hno => absurd (h.symm.trans (hvf0 hno)) (by decide), hvf1⟩

/-- Settles O29: the begun step leaves no event and the advanced PC, and the clear writes pixels alone. -/
theorem clearScreenTurnsEveryPixelOff : Obligations.ClearScreenTurnsEveryPixelOff := by
  intro s
  refine ⟨⟨_, rfl, Framebuffer.pixel_clear, changesOnly_setFb s _⟩, fun hrun hword => ?_⟩
  have hd : decode (fetchWord s) = .instr .cls := hword ▸ decode_encode (i := .cls) rfl
  exact ⟨_, step_of_decode hrun hd, Framebuffer.pixel_clear, rfl, rfl,
    ((changesOnly_beginStep s).trans (changesOnly_setFb _ _)).mono fun _ =>
      (Or.comm.trans (or_congr_right Or.comm)).mp⟩

end Sys2Proof.Machine

/-! # Family 42_control: 0NNN, jumps, skips, calls and returns

What a write of PC or of the stack leaves unchanged, and what a call and a return answer at each depth of the stack;
then the statements (42_control.md). -/

namespace Sys2Proof.Machine

/-! ## Frames of the writes of PC and of the stack -/

theorem changesOnly_setPc (s : State) (a : Word) : ChangesOnly (fun p => p = .pc) s (s.setPc a) := by
  intro p hp
  cases p with
  | pc => exact absurd rfl hp
  | _ => rfl

theorem changesOnly_setStack (s : State) (l : List Word) : ChangesOnly (fun p => p = .stack) s (s.setStack l) := by
  intro p hp
  cases p with
  | stack => exact absurd rfl hp
  | _ => rfl

theorem changesOnly_setStack_setPc (s : State) (l : List Word) (a : Word) :
    ChangesOnly (fun p => p = .pc ∨ p = .stack) s ((s.setStack l).setPc a) :=
  ((changesOnly_setStack s l).trans (changesOnly_setPc (s.setStack l) a)).mono fun _ => Or.symm

/-! ## Instructions that end in a write of PC (42_control.md R170, R181) -/

theorem State.skipIf_eq_setPc (s : State) (c : Bool) : s.skipIf c = s.setPc (if c then s.pc + 2 else s.pc) := by
  cases c <;> rfl

theorem writesPc_of_exec {i : Instr} {s : State} {a b : Word} (h : exec i s = .next (s.setPc a)) (ha : a = b) :
    WritesPc i s b :=
  ⟨_, h, ha, changesOnly_setPc s a⟩

theorem writesPc_of_exec_skipIf {i : Instr} {s : State} {c : Bool} {P : Prop} [Decidable P] {a : Word}
    (h : exec i s = .next (s.skipIf c)) (hc : c = true ↔ P) (ha : (if P then s.pc + 2 else s.pc) = a) :
    WritesPc i s a := by
  rw [State.skipIf_eq_setPc] at h
  exact writesPc_of_exec h ((if_congr hc rfl rfl).trans ha)

/-! ## Calls and returns by the depth of the stack (R172, R173, R176) -/

theorem exec_call_of_lt {s : State} (h : s.stack.length < 16) (nnn : Addr12) :
    exec (.call nnn) s = .next ((s.setStack (s.stack ++ [s.pc])).setPc (zextAddr nnn)) :=
  ((pushThen_eq (encode (.call nnn)) s.pc (fun t => t.setPc (zextAddr nnn)) s).resolve_right fun hfull =>
    absurd h hfull.1.not_gt).2

theorem exec_call_of_ge {s : State} (h : 16 ≤ s.stack.length) (nnn : Addr12) :
    exec (.call nnn) s = .fault (.stackOverflow (encode (.call nnn))) :=
  ((pushThen_eq (encode (.call nnn)) s.pc (fun t => t.setPc (zextAddr nnn)) s).resolve_left fun hroom =>
    absurd h hroom.1.not_ge).2

theorem exec_ret_of_append {s : State} {rest : List Word} {a : Word} (h : s.stack = rest ++ [a]) :
    exec .ret s = .next ((s.setStack rest).setPc a) := by
  rcases popThen_eq (encode .ret) (fun a t => t.setPc a) s with ⟨rest', a', hs, hpop⟩ | ⟨hnil, -⟩
  · obtain ⟨rfl, hlast⟩ := List.append_inj' (h.symm.trans hs) rfl
    obtain rfl := List.singleton_inj.mp hlast
    exact hpop
  · exact absurd (h.symm.trans hnil) (List.append_ne_nil_of_right_ne_nil rest (List.cons_ne_nil a []))

theorem exec_ret_of_nil {s : State} (h : s.stack = []) : exec .ret s = .fault (.stackUnderflow (encode .ret)) := by
  rcases popThen_eq (encode .ret) (fun a t => t.setPc a) s with ⟨rest, a, hs, -⟩ | ⟨-, hpop⟩
  · exact absurd (hs.symm.trans h) (List.append_ne_nil_of_right_ne_nil rest (List.cons_ne_nil a []))
  · exact hpop

/-! ## A step by the instruction whose word it fetches (30_encoding.md R90), and the word of `sys` (R171) -/

theorem step_of_fetchWord {i : Instr} {s : State} (hword : fetchWord s = encode i) (hi : i.wellFormed = true)
    (hrun : s.halted = false) : step s = exec i (beginStep s) :=
  step_of_decode hrun (hword ▸ decode_encode hi)

theorem encode_sys (nnn : Addr12) : encode (.sys nnn) = zextAddr nnn := BitVec.zero_or

/-! ## The statements -/

/-- Settles O36: the return takes back what the call has pushed, so only PC, advanced, and the event differ. -/
theorem callThenReturnComesBack : Obligations.CallThenReturnComesBack := by
  intro s t nnn hroom hrun hword hstep hret
  have hcall : step s = .next (((beginStep s).setStack (s.stack ++ [s.pc + 2])).setPc (zextAddr nnn)) :=
    (step_of_fetchWord hword rfl hrun).trans (exec_call_of_lt (s := beginStep s) hroom nnn)
  obtain rfl := Host.Outcome.next.inj (hcall.symm.trans hstep)
  exact ⟨(s.setPc (s.pc + 2)).setEvent .none,
    (step_of_fetchWord hret rfl hrun).trans (exec_ret_of_append (rest := s.stack) (a := s.pc + 2) rfl), rfl,
    (changesOnly_setPc s _).trans (changesOnly_setEvent _ .none)⟩

/-- Settles O9: the meaning of `sys` is the fault, and a well-formed word of class 0x0 is decoded as `sys`. -/
theorem sysIsFatal : Obligations.SysIsFatal := by
  intro s nnn
  have hexec (t : State) : exec (.sys nnn) t = .fault (.unimplementedOpcode (zextAddr nnn)) := by
    rw [← encode_sys]; rfl
  refine ⟨hexec s, fun hrun hcls hret hword => ?_⟩
  have hsys : fetchWord s = encode (.sys nnn) := hword.trans (encode_sys nnn).symm
  exact (step_of_fetchWord hsys (wellFormed_sys_iff.mpr ⟨hcls, hret⟩) hrun).trans (hexec (beginStep s))

/-- Settles O33: both are one write of PC, and the sum of BNNN never wraps. -/
theorem jumpsWriteOnlyPc : Obligations.JumpsWriteOnlyPc :=
  fun _ nnn =>
    ⟨writesPc_of_exec rfl (BitVec.toNat_eq_nat.mp (zextAddr_toNat nnn)).2,
      writesPc_of_exec rfl (BitVec.toNat_eq_nat.mp (zextAddr_add_zextByte_toNat nnn _)).2⟩

/-- Settles O34: each is one conditional write of PC; the condition of SNE is the negation of that of SE. -/
theorem skipsAddTwoWhenTheConditionHolds : Obligations.SkipsAddTwoWhenTheConditionHolds :=
  fun _ _ _ _ =>
    ⟨writesPc_of_exec_skipIf rfl beq_iff_eq rfl, writesPc_of_exec_skipIf rfl bne_iff_ne (ite_not ..),
      writesPc_of_exec_skipIf rfl beq_iff_eq rfl, writesPc_of_exec_skipIf rfl bne_iff_ne (ite_not ..)⟩

/-- Settles O35: the depth of the stack decides, and a call or return that completes writes the stack and PC. -/
theorem callAndReturnUseABoundedStack : Obligations.CallAndReturnUseABoundedStack :=
  fun s nnn =>
    ⟨fun hroom => ⟨_, exec_call_of_lt hroom nnn, rfl, zextAddr_toNat nnn, changesOnly_setStack_setPc s _ _⟩,
      fun hfull => exec_call_of_ge hfull.ge nnn,
      fun rest a h => ⟨_, exec_ret_of_append h, rfl, rfl, changesOnly_setStack_setPc s rest a⟩,
      exec_ret_of_nil⟩

end Sys2Proof.Machine

/-! # Family 43_index_memory: the index register and memory blocks

What a write of I, of a block of memory and of a block of registers leaves unchanged, and where the glyph of a digit
stands; then the statements (43_index_memory.md). -/

namespace Sys2Proof.Machine

/-! ## Writes of I (43_index_memory.md R200 to R204, R214) -/

theorem changesOnly_setI (s : State) (a : Word) : ChangesOnly (fun p => p = .index) s (s.setI a) := by
  intro p hp
  cases p with
  | index => exact absurd rfl hp
  | _ => rfl

theorem writesIndex_of_exec {i : Instr} {s : State} {a : Word} {n : Nat} (h : exec i s = .next (s.setI a))
    (ha : a.toNat = n) : WritesIndex i s n :=
  ⟨_, h, ha, changesOnly_setI s a⟩

theorem changesOnly_advanceI (s : State) (advances : Bool) (x : Reg) :
    ChangesOnly (fun p => p = .index ∧ advances = true) s (s.advanceI advances x) := by
  cases advances with
  | true => exact (changesOnly_setI s _).mono fun _ hp => ⟨hp, rfl⟩
  | false => exact fun p _ => by cases p <;> rfl

theorem advanceI_i_toNat (s : State) (advances : Bool) (x : Reg) :
    (s.advanceI advances x).i.toNat = if advances then (s.i.toNat + x.val + 1) % 65536 else s.i.toNat := by
  cases advances with
  | true =>
    calc (s.i + BitVec.ofNat 16 (x.val + 1)).toNat
      _ = (s.i.toNat + (x.val + 1) % 65536) % 65536 := by rw [BitVec.toNat_add, BitVec.toNat_ofNat]
      _ = (s.i.toNat + x.val + 1) % 65536 := by rw [Nat.add_mod_mod, Nat.add_assoc]
  | false => rfl

/-! ## Blocks of memory and of registers (R208 to R212) -/

/-- A block stored through I changes the bytes of the block alone. -/
theorem changesOnly_writeBytes {s : State} (h : s.mem.wf) (bs : List Byte) :
    ChangesOnly (StoredBytes s bs.length) s (s.setMem (writeBytes s.mem (indexAddress s 0) bs)) := by
  intro p hp
  cases p with
  | byteAt a =>
    exact readByte_writeBytes_outside h (indexAddress s 0) a bs fun k hk haddr => hp ⟨a, k, rfl, hk, haddr⟩
  | _ => rfl

theorem changesOnly_setRegsUpTo (s : State) (x : Reg) (f : Reg → Byte) :
    ChangesOnly (fun p => ∃ r ≤ x, p = .reg r) s (s.setRegsUpTo x f) := by
  intro p hp
  cases p with
  | reg r => exact (s.reg_setRegsUpTo x r f).trans (if_neg fun hr => hp ⟨r, hr, rfl⟩)
  | _ => simp [Part.Same, State.pressed]

theorem reg_loadRegs_of_le (advances : Bool) {x r : Reg} (h : r ≤ x) (s : State) :
    (loadRegs advances x s).reg r = readByte s.mem (indexAddress s r.val) := by
  rw [loadRegs, State.reg_advanceI, State.reg_setRegsUpTo, if_pos h]

/-- Byte k of FX33's block is its k-th digit, and each digit fits in a byte. -/
theorem toNat_readByte_bcdDigits {m : Memory} (h : m.wf) (a : Nat) (b : Byte) {k n : Nat} (hn : n < 256)
    (hk : (bcdDigits b)[k]? = some (BitVec.ofNat 8 n)) :
    (readByte (writeBytes m a (bcdDigits b)) (a + k)).toNat = n := by
  obtain ⟨hlt, hdigit⟩ := List.getElem?_eq_some_iff.mp hk
  have hlen : (bcdDigits b).length = 3 := rfl
  rw [readByte_writeBytes_inside h a _ (by omega) k hlt, hdigit, BitVec.toNat_ofNat, Nat.mod_eq_of_lt hn]

/-! ## The font (R204; 70_reset_and_hazards.md R302, R303) -/

/-- FONT_BASE, for either value of the parameter, is at most 0x050 (20_memory.md R63). -/
theorem fontBase_toNat_le : fontBase.toNat ≤ 0x50 := by
  unfold fontBase
  split <;> decide

/-- The address of a digit's glyph never wraps. -/
theorem glyphAddress_fontBase_toNat {d : Byte} (h : d.toNat ≤ 0xF) :
    (glyphAddress fontBase d).toNat = fontBase.toNat + 5 * d.toNat := by
  have hbase := fontBase_toNat_le
  have hd : (d.setWidth 16).toNat = d.toNat := BitVec.toNat_setWidth_of_le (by decide)
  rw [glyphAddress, BitVec.toNat_add, BitVec.toNat_mul, hd, show (5 : Word).toNat = 5 from rfl]
  omega

/-- The 80 bytes from FONT_BASE are the font, which lies below 0x0A0 for either FONT_BASE (R303). -/
theorem initialByte_fontBase_add {k : Nat} (h : k < 80) : initialByte (fontBase.toNat + k) = fontGlyphs.getD k 0 := by
  have hbase := fontBase_toNat_le
  rw [initialByte, if_pos (by omega), initialByteOf, if_neg (by omega), Nat.add_sub_cancel_left]

theorem readByte_reset {a : Nat} (h : a < 4096) : readByte State.reset.mem a = initialByte a :=
  congrArg initialByte (Nat.mod_eq_of_lt h)

/-! ## FX29 by the value of V[x] (R204) -/

theorem exec_ldF_of_le {s : State} {x : Reg} (h : (s.reg x).toNat ≤ 0xF) :
    exec (.ldF x) s = .next (s.setI (glyphAddress fontBase (s.reg x))) := by
  rw [exec, execLdF, hexDigit_of_lt (Nat.lt_succ_of_le h)]

theorem exec_ldF_of_gt {s : State} {x : Reg} (h : (s.reg x).toNat > 0xF) :
    exec (.ldF x) s = .refused (.fontDigitOutOfRange (encode (.ldF x))) := by
  rw [exec, execLdF, hexDigit_of_ge h, refuseUnsettled]

theorem reg_le_of_exec_ldF_next {s t : State} {x : Reg} (h : exec (.ldF x) s = .next t) : (s.reg x).toNat ≤ 0xF := by
  by_contra hgt
  cases h.symm.trans (exec_ldF_of_gt (not_le.mp hgt))

/-! ## The statements -/

/-- Settles O40: a completed FX29 had a digit, so the five bytes at I lie inside the font's 80. -/
theorem glyphBytesStandAtTheFontAddress : Obligations.GlyphBytesStandAtTheFontAddress := by
  intro s t x hmem hexec r hr
  have hdigit : (s.reg x).toNat ≤ 0xF := reg_le_of_exec_ldF_next hexec
  have hbase := fontBase_toNat_le
  obtain rfl := execLdF_next hexec
  have haddr : indexAddress (s.setI (glyphAddress fontBase (s.reg x))) r =
      fontBase.toNat + (5 * (s.reg x).toNat + r) := by
    rw [indexAddress, State.setI_i, glyphAddress_fontBase_toNat hdigit, Nat.add_assoc]
  rw [haddr, State.setI_mem, hmem, readByte_reset (by omega), initialByte_fontBase_add (by omega)]

/-- Settles O44: the load reads the very addresses the store wrote, each of them once. -/
theorem loadAfterStoreGivesTheRegistersBack : Obligations.LoadAfterStoreGivesTheRegistersBack := by
  intro s t u w x hs hstore hmem hi hload r hr
  obtain rfl : t = storeRegs Config.loadStoreAdvancesI x s := (Host.Outcome.next.inj hstore).symm
  obtain rfl := execLdvMem_next hload
  rw [reg_loadRegs_of_le _ hr, hmem, indexAddress, hi]
  exact readByte_storeRegs hs _ hr

/-- Settles O38: both are one write of I. -/
theorem indexRegisterIsSetAndAdjusted : Obligations.IndexRegisterIsSetAndAdjusted :=
  fun s x nnn =>
    ⟨writesIndex_of_exec rfl (zextAddr_toNat nnn),
      writesIndex_of_exec rfl ((BitVec.toNat_add _ _).trans (by rw [zextByte_toNat]))⟩

/-- Settles O39: one write of I for a digit, whose sum never wraps, and the refusal above. -/
theorem fontDigitAddressesItsGlyph : Obligations.FontDigitAddressesItsGlyph :=
  fun _ _ => ⟨fun h => writesIndex_of_exec (exec_ldF_of_le h) (glyphAddress_fontBase_toNat h), exec_ldF_of_gt⟩

/-- Settles O41: the block store of the three digits. -/
theorem bcdStoresThreeDigits : Obligations.BcdStoresThreeDigits := by
  intro s x hs
  have hlt := (s.reg x).isLt
  exact ⟨_, rfl, toNat_readByte_bcdDigits hs _ _ (by omega) rfl, toNat_readByte_bcdDigits hs _ _ (by omega) rfl,
    toNat_readByte_bcdDigits hs _ _ (by omega) rfl, changesOnly_writeBytes hs (bcdDigits (s.reg x))⟩

/-- Settles O42: a block store of x + 1 registers, and then the advance of I. -/
theorem blockStoreWritesRegistersInclusive : Obligations.BlockStoreWritesRegistersInclusive := by
  refine fun s x hs => ⟨rfl, fun advances => ⟨fun r hr => readByte_storeRegs hs advances hr, ?_, ?_⟩⟩
  · exact advanceI_i_toNat _ advances x
  · have hblock := changesOnly_writeBytes hs (s.regsUpTo x)
    rw [State.regsUpTo_length] at hblock
    exact hblock.trans (changesOnly_advanceI _ advances x)

/-- Settles O43: x + 1 registers are read from the block, and then I is advanced. -/
theorem blockLoadReadsRegistersInclusive : Obligations.BlockLoadReadsRegistersInclusive := by
  refine fun s x => ⟨rfl, fun advances => ⟨fun r hr => reg_loadRegs_of_le advances hr s, ?_, ?_⟩⟩
  · rw [loadRegs, advanceI_i_toNat, State.setRegsUpTo_i]
  · rw [loadRegs]
    exact (changesOnly_setRegsUpTo s x _).trans (changesOnly_advanceI _ advances x)

end Sys2Proof.Machine

/-! # Family 44_timer_key: the timers and the keypad

KEY_ORDER as a sort of the keys, what FX0A answers with a key down and with none, and runs of a state that steps to
itself; then the statements (44_timer_key.md). -/

namespace Sys2Proof.Machine

/-! ## KEY_ORDER is a sort (44_timer_key.md R236) -/

theorem insertKey_eq_orderedInsert (rank : Key → Nat) (k : Key) (l : List Key) :
    insertKey rank k l = l.orderedInsert (fun a b => rank a ≤ rank b) k := by
  induction l with
  | nil => rfl
  | cons h t ih => rw [insertKey, List.orderedInsert_cons, ih]

theorem keyOrderOf_eq_insertionSort (rank : Key → Nat) :
    keyOrderOf rank = allKeys.insertionSort (fun a b => rank a ≤ rank b) := by
  rw [keyOrderOf, funext₂ (insertKey_eq_orderedInsert rank)]
  rfl

theorem keyOrderOf_perm (rank : Key → Nat) : (keyOrderOf rank).Perm allKeys := by
  rw [keyOrderOf_eq_insertionSort]
  exact List.perm_insertionSort _ _

theorem keyOrder_perm : keyOrder.Perm allKeys := by
  unfold keyOrder
  exact keyOrderOf_perm _

/-- The places rise along the order: sorting the keys by place sorts their places. -/
theorem keyOrderOf_pairwise (rank : Key → Nat) : (keyOrderOf rank).Pairwise (fun a b => rank a ≤ rank b) := by
  rw [keyOrderOf_eq_insertionSort, ← List.pairwise_map,
    List.map_insertionSort _ (· ≤ ·) rank allKeys fun _ _ _ _ => Iff.rfl]
  exact List.pairwise_insertionSort _ _

theorem allKeys_nodup : allKeys.Nodup := by decide

/-- Along a list without repetitions the first positions rise. -/
theorem pairwise_idxOf_le {l : List Key} (h : l.Nodup) : l.Pairwise (fun a b => l.idxOf a ≤ l.idxOf b) := by
  rw [List.pairwise_iff_getElem]
  intro i j hi hj hij
  rw [h.idxOf_getElem, h.idxOf_getElem]
  exact hij.le

/-- With each key's position in a permutation of the keys as its place, the order is that permutation. -/
theorem keyOrderOf_idxOf {order : List Key} (h : order.Perm allKeys) : keyOrderOf (order.idxOf ·) = order := by
  have hmem (k : Key) : k ∈ order := h.mem_iff.mpr (mem_allKeys k)
  refine ((keyOrderOf_perm _).trans h.symm).eq_of_pairwise (fun a b _ _ hab hba => ?_) (keyOrderOf_pairwise _)
    (pairwise_idxOf_le (h.nodup_iff.mpr allKeys_nodup))
  exact (List.idxOf_inj (hmem a)).mp (le_antisymm hab hba)

/-! ## FX0A by the keypad (R235 to R237) -/

theorem exec_ldvKey_of_anyPressed {s : State} {k : Key} (h : anyPressed s = some k) (x : Reg) :
    exec (.ldvKey x) s = .next (s.setReg x (keyByte k)) := by
  rw [exec, execLdvKey, h]

theorem exec_ldvKey_of_none_pressed {s : State} (h : ∀ k, s.pressed k = false) (x : Reg) :
    exec (.ldvKey x) s = .next (s.rewindPc.setEvent .waitForKey) := by
  rw [exec, execLdvKey, anyPressed_none.mpr h]

/-- With a key down, `any_pressed` splits KEY_ORDER at the first pressed key (R236). -/
theorem exists_anyPressed {s : State} (h : ∃ k, s.pressed k = true) :
    ∃ before k after, anyPressed s = some k ∧ keyOrder = before ++ k :: after ∧ s.pressed k = true ∧
      ∀ j ∈ before, s.pressed j = false := by
  cases hk : anyPressed s with
  | none =>
    obtain ⟨k, hdown⟩ := h
    exact absurd (anyPressed_none.mp hk k) (ne_false_of_eq_true hdown)
  | some k =>
    rw [anyPressed_eq, firstPressed, List.find?_eq_some_iff_append] at hk
    obtain ⟨hdown, before, after, horder, hup⟩ := hk
    exact ⟨before, k, after, rfl, horder, hdown, fun j hj => by simpa using hup j hj⟩

theorem rewindPc_beginStep (s : State) : (beginStep s).rewindPc = s.setEvent .none := by
  rw [State.rewindPc, beginStep_pc, BitVec.add_sub_cancel]
  rfl

/-- The rewind undoes the advance, so a waiting step leaves the event alone changed (R237). -/
theorem step_of_waiting {s : State} {x : Reg} (hrun : s.halted = false) (hword : fetchWord s = encode (.ldvKey x))
    (hup : ∀ k, s.pressed k = false) : step s = .next (s.setEvent .waitForKey) :=
  calc step s = exec (.ldvKey x) (beginStep s) := step_of_fetchWord hword rfl hrun
    _ = .next ((beginStep s).rewindPc.setEvent .waitForKey) := exec_ldvKey_of_none_pressed (s := beginStep s) hup x
    _ = .next (s.setEvent .waitForKey) := by rw [rewindPc_beginStep]; rfl

theorem run_succ_of_step {M : Host.Core} {s t : M.State} (h : M.step s = .next t) (n : Nat) :
    M.run (n + 1) s = M.run n t := by
  rw [Host.Core.run, h]

/-- Every run of a state that steps to itself stays there. -/
theorem run_of_step_self {M : Host.Core} {s : M.State} (h : M.step s = .next s) (n : Nat) : M.run n s = .next s := by
  induction n with
  | zero => rfl
  | succ n ih => exact (run_succ_of_step h n).trans ih

/-! ## EX9E and EXA1 by the value of V[x] (R240, R242, R244) -/

theorem hexDigit_of_val {b : Byte} {k : Key} (h : k.val = b.toNat) : hexDigit b = some k :=
  (hexDigit_of_lt (h ▸ k.isLt)).trans (congrArg some (Fin.ext h.symm))

section Skips

variable {s : State} {x : Reg} {k : Key}

theorem exec_skp_of_key (hk : k.val = (s.reg x).toNat) : exec (.skp x) s = .next (s.skipIf (s.pressed k)) := by
  rw [exec, execSkp, hexDigit_of_val hk]

theorem exec_sknp_of_key (hk : k.val = (s.reg x).toNat) : exec (.sknp x) s = .next (s.skipIf (!s.pressed k)) := by
  rw [exec, execSknp, hexDigit_of_val hk]

theorem exec_skp_of_gt (h : (s.reg x).toNat > 0xF) :
    exec (.skp x) s = .refused (.keyIndexOutOfRange (encode (.skp x))) := by
  rw [exec, execSkp, hexDigit_of_ge h, refuseUnsettled]

theorem exec_sknp_of_gt (h : (s.reg x).toNat > 0xF) :
    exec (.sknp x) s = .refused (.keyIndexOutOfRange (encode (.sknp x))) := by
  rw [exec, execSknp, hexDigit_of_ge h, refuseUnsettled]

end Skips

/-! ## Frames of the timer writes (R232, R233) -/

theorem changesOnly_setDt (s : State) (b : Byte) : ChangesOnly (fun p => p = .delayTimer) s (s.setDt b) := by
  intro p hp
  cases p with
  | delayTimer => exact absurd rfl hp
  | _ => rfl

theorem changesOnly_setSt (s : State) (b : Byte) : ChangesOnly (fun p => p = .soundTimer) s (s.setSt b) := by
  intro p hp
  cases p with
  | soundTimer => exact absurd rfl hp
  | _ => rfl

/-! ## The statements -/

/-- Settles O48: the first step changes the event alone, and the state it leaves waits too and so steps to itself. -/
theorem waitingForAKeyRepeats : Obligations.WaitingForAKeyRepeats := by
  intro s x hrun hword hup n
  have hfirst : step s = .next (s.setEvent .waitForKey) := step_of_waiting hrun hword hup
  have hself : step (s.setEvent .waitForKey) = .next (s.setEvent .waitForKey) :=
    step_of_waiting (s := s.setEvent .waitForKey) hrun hword hup
  calc core.run (n + 1) s = core.run n (s.setEvent .waitForKey) := run_succ_of_step (M := core) hfirst n
    _ = .next (s.setEvent .waitForKey) := run_of_step_self (M := core) hself n

/-- Settles O49: KEY_ORDER sorts the keys by place, and the positions in a permutation are places that sort into it. -/
theorem keyOrderIsAnyPermutation : Obligations.KeyOrderIsAnyPermutation :=
  ⟨keyOrder_perm, fun _ h => ⟨_, keyOrderOf_idxOf h⟩⟩

/-- Settles O46: each of the three is one write, of its destination. -/
theorem timerMovesWriteOneDestination : Obligations.TimerMovesWriteOneDestination :=
  fun s x =>
    ⟨writesRegister_of_exec rfl rfl, ⟨_, rfl, rfl, changesOnly_setDt s (s.reg x)⟩,
      ⟨_, rfl, rfl, changesOnly_setSt s (s.reg x)⟩⟩

/-- Settles O47: with a first pressed key it is one register write, with none a rewind of PC and the event. -/
theorem keyWaitStoresTheFirstPressedKey : Obligations.KeyWaitStoresTheFirstPressedKey := by
  refine fun s x => ⟨fun hdown => ?_, fun hup => ?_⟩
  · obtain ⟨before, k, after, hk, horder, hpressed, hbefore⟩ := exists_anyPressed hdown
    exact ⟨before, k, after, horder, hpressed, hbefore, writesRegister_of_exec (exec_ldvKey_of_anyPressed hk x) rfl⟩
  · exact ⟨_, exec_ldvKey_of_none_pressed hup x, rfl, rfl,
      (changesOnly_setPc s _).trans (changesOnly_setEvent s.rewindPc .waitForKey)⟩

/-- Settles O50: with a key number each is one conditional write of PC, and above 0xF both refuse. -/
theorem keySkipsQueryTheKeypad : Obligations.KeySkipsQueryTheKeypad :=
  fun _ _ =>
    ⟨fun _ hk => ⟨writesPc_of_exec_skipIf (exec_skp_of_key hk) Iff.rfl rfl,
      writesPc_of_exec_skipIf (exec_sknp_of_key hk) Bool.not_iff_not (ite_not ..)⟩,
      fun h => ⟨exec_skp_of_gt h, exec_sknp_of_gt h⟩⟩

end Sys2Proof.Machine

/-! # Family 60_exceptions: how a step stops, the host's calls, and the end of a run

Which instructions stop and on which operands, what tick, refresh and the display view are, and what the end of a run
says about its states; then the statements (60_exceptions.md). -/

namespace Sys2Proof.Machine

/-! ## The instructions that stop (60_exceptions.md R260, R265) -/

/-- The instruction stops from `s` with this answer: it is `sys`, the stack has no room or no entry, or V[x] is no digit
or key number. -/
inductive Stops : Instr → State → Result → Prop where
  | sys (nnn : Addr12) (s : State) : Stops (.sys nnn) s (.fault (.unimplementedOpcode (encode (.sys nnn))))
  | call (nnn : Addr12) {s : State} (h : 16 ≤ s.stack.length) :
      Stops (.call nnn) s (.fault (.stackOverflow (encode (.call nnn))))
  | ret {s : State} (h : s.stack = []) : Stops .ret s (.fault (.stackUnderflow (encode .ret)))
  | ldF {x : Reg} {s : State} (h : (s.reg x).toNat > 0xF) :
      Stops (.ldF x) s (.refused (.fontDigitOutOfRange (encode (.ldF x))))
  | skp {x : Reg} {s : State} (h : (s.reg x).toNat > 0xF) :
      Stops (.skp x) s (.refused (.keyIndexOutOfRange (encode (.skp x))))
  | sknp {x : Reg} {s : State} (h : (s.reg x).toNat > 0xF) :
      Stops (.sknp x) s (.refused (.keyIndexOutOfRange (encode (.sknp x))))

theorem Stops.exec_eq {i : Instr} {s : State} {r : Result} (h : Stops i s r) : exec i s = r := by
  cases h with
  | sys nnn => rfl
  | call nnn hfull => exact exec_call_of_ge hfull nnn
  | ret hnil => exact exec_ret_of_nil hnil
  | ldF hx => exact exec_ldF_of_gt hx
  | skp hx => exact exec_skp_of_gt hx
  | sknp hx => exact exec_sknp_of_gt hx

theorem Stops.exec_stops {i : Instr} {s : State} {r : Result} (h : Stops i s r) : Stops i s (exec i s) :=
  h.exec_eq.symm ▸ h

/-- Every instruction completes, or is one of those that stop. -/
theorem exec_next_or_stops (i : Instr) (s : State) : (∃ t, exec i s = .next t) ∨ Stops i s (exec i s) := by
  cases i with
  | sys nnn => exact .inr (.sys nnn s)
  | call nnn =>
    rcases Nat.lt_or_ge s.stack.length 16 with hroom | hfull
    · exact .inl ⟨_, exec_call_of_lt hroom nnn⟩
    · exact .inr (Stops.call nnn hfull).exec_stops
  | ret =>
    rcases List.eq_nil_or_concat s.stack with hnil | ⟨rest, a, hs⟩
    · exact .inr (Stops.ret hnil).exec_stops
    · exact .inl ⟨_, exec_ret_of_append (hs.trans List.concat_eq_append)⟩
  | ldF x =>
    rcases Nat.lt_or_ge 0xF (s.reg x).toNat with hgt | hle
    · exact .inr (Stops.ldF hgt).exec_stops
    · exact .inl ⟨_, exec_ldF_of_le hle⟩
  | skp x =>
    rcases Nat.lt_or_ge 0xF (s.reg x).toNat with hgt | hle
    · exact .inr (Stops.skp hgt).exec_stops
    · exact .inl ⟨_, exec_skp_of_key (k := ⟨_, Nat.lt_succ_of_le hle⟩) rfl⟩
  | sknp x =>
    rcases Nat.lt_or_ge 0xF (s.reg x).toNat with hgt | hle
    · exact .inr (Stops.sknp hgt).exec_stops
    · exact .inl ⟨_, exec_sknp_of_key (k := ⟨_, Nat.lt_succ_of_le hle⟩) rfl⟩
  | _ => exact .inl ⟨_, rfl⟩

/-! ## The steps that stop -/

theorem decode_of_dispatch {op : Word} {i : Instr} (h : dispatch op = some i) : decode op = .instr i := by
  rw [decode, h]

/-- No entry has `sys` (30_encoding.md R86). -/
theorem dispatch_ne_sys (op : Word) (nnn : Addr12) : dispatch op ≠ some (.sys nnn) := by
  intro h
  obtain ⟨rfl, hwf⟩ := encode_of_decode (decode_of_dispatch h)
  have hnone : dispatch (encode (.sys nnn)) = none :=
    (dispatch_eq_none_iff_sys_wellFormed (class_wordNnn 0x0 nnn)).mpr ((fieldNnn_wordNnn 0x0 nnn).symm ▸ hwf)
  cases hnone.symm.trans h

/-- The three ways a step answers no next state: the machine is halted, no entry matches the word, or the entry's
instruction stops. -/
theorem step_stop_cases {s : State} {r : Result} (h : step s = r) (hr : ∀ t, r ≠ .next t) :
    (s.halted = true ∧ r = .fault .halted) ∨
      (s.halted = false ∧ dispatch (fetchWord s) = none ∧ r = .fault (.unimplementedOpcode (fetchWord s))) ∨
      (s.halted = false ∧ ∃ i, dispatch (fetchWord s) = some i ∧ decode (fetchWord s) = .instr i ∧
        encode i = fetchWord s ∧ Stops i (beginStep s) r) := by
  cases hrun : s.halted with
  | true => exact .inl ⟨rfl, h.symm.trans (act_halted hrun .step)⟩
  | false =>
    cases hd : dispatch (fetchWord s) with
    | none => exact .inr (.inl ⟨rfl, rfl, h.symm.trans (step_of_no_row hrun hd)⟩)
    | some i =>
      have hdecode := decode_of_dispatch hd
      have hexec : exec i (beginStep s) = r := (step_of_decode hrun hdecode).symm.trans h
      rcases exec_next_or_stops i (beginStep s) with ⟨t, ht⟩ | hstops
      · exact absurd (hexec.symm.trans ht) (hr t)
      · exact .inr (.inr ⟨rfl, i, rfl, hdecode, (encode_of_decode hdecode).1, hexec ▸ hstops⟩)

theorem step_of_stops {s : State} {i : Instr} {r : Result} (hrun : s.halted = false)
    (hd : decode (fetchWord s) = .instr i) (h : Stops i (beginStep s) r) : step s = r :=
  (step_of_decode hrun hd).trans h.exec_eq

/-! ## The host's calls (R270, R275, R276) -/

theorem whenRunning_of_running {s : State} (h : s.halted = false) (f : State → State) :
    whenRunning s f = .next (f s) := by
  simp only [whenRunning, h, Bool.false_eq_true, if_false]

theorem changesOnly_setKeys (s : State) (k : Vector Bool 16) :
    ChangesOnly (fun p => ∃ j, p = .key j) s (s.setKeys k) := by
  intro p hp
  cases p with
  | key j => exact absurd ⟨j, rfl⟩ hp
  | _ => rfl

/-- The view is the rows end to end. -/
theorem displayView_eq_flatten (s : State) : displayView s = s.fb.flatten.toList :=
  (Array.toList_flatten.trans (by rw [Array.toList_map, List.map_map]; rfl)).symm

theorem act_next_running {a : HostAction} {s t : State} (h : act a s = .next t) : t.halted = false := by
  rcases act_next h with ⟨-, hstep⟩ | ⟨-, hrun, rfl⟩ | ⟨down, -, hrun, rfl⟩
  · obtain ⟨i, hrun, -, hexec⟩ := step_next hstep
    exact (exec_frame hexec).halted.trans hrun
  · exact hrun
  · exact hrun

/-! ## Every reachable state (R271, R277) -/

/-- What every action keeps, every run keeps. -/
theorem runActions_keeps {P : State → Prop} (hact : ∀ a s, P s → P (settle s (act a s))) (actions : List HostAction)
    {s : State} (hs : P s) : P (runActions actions s) := by
  induction actions generalizing s with
  | nil => exact hs
  | cons a rest ih => exact ih (hact a s hs)

theorem initialise_inv (image : List Byte) : (initialise image).Inv :=
  ⟨wf_writeBytes Memory.wf_nil _ _, Nat.zero_le _⟩

/-! ## The self-loop at the end of a run (R278) -/

/-- The jump goes back to where it was fetched, so only the event can differ. -/
theorem step_of_runEndsAt {s : State} {a : Addr12} (hrun : s.halted = false) (h : RunEndsAt a s) :
    step s = .next (s.setEvent .none) := by
  obtain ⟨hpc, hword⟩ := h
  calc step s = exec (.jp a) (beginStep s) := step_of_fetchWord hword rfl hrun
    _ = .next ((beginStep s).setPc (zextAddr a)) := rfl
    _ = .next (s.setEvent .none) := by rw [← hpc]; rfl

/-! ## The states of a run, and where it ends (R278) -/

/-- The state after the first `n` actions. -/
def stateAfter (actions : List HostAction) (s : State) (n : Nat) : State := runActions (actions.take n) s

theorem stateAfter_cons_succ {x : HostAction} {s u : State} (h : act x s = .next u) (rest : List HostAction) (n : Nat) :
    stateAfter (x :: rest) s (n + 1) = stateAfter rest u n := by
  rw [stateAfter, List.take_succ_cons, runActions_cons, h, settle_next, stateAfter]

/-- The run from `s` comes to its state number `n`: nothing has stopped it, and none before is at the self-loop. -/
structure RunsTo (a : Addr12) (actions : List HostAction) (s : State) (n : Nat) : Prop where
  running : (stateAfter actions s n).halted = false
  before : ∀ m < n, ¬ RunEndsAt a (stateAfter actions s m)

section Runs

variable {a : Addr12} {x : HostAction} {actions rest : List HostAction} {s u : State} {n : Nat}

theorem RunsTo.zero (h : s.halted = false) : RunsTo a actions s 0 :=
  ⟨h, fun _ hm => absurd hm (Nat.not_lt_zero _)⟩

/-- None of the states up to the one the run has come to is at the self-loop, if that one is not either. -/
theorem RunsTo.not_runEndsAt (h : RunsTo a actions s n) (hend : ¬ RunEndsAt a (stateAfter actions s n)) :
    ∀ m ≤ n, ¬ RunEndsAt a (stateAfter actions s m) :=
  fun _ hm => Nat.forall_lt_succ_right.mpr ⟨h.before, hend⟩ _ (Nat.lt_succ_of_le hm)

theorem runsTo_of_not_runEndsAt (hrun : (stateAfter actions s n).halted = false)
    (h : ∀ m ≤ n, ¬ RunEndsAt a (stateAfter actions s m)) : RunsTo a actions s n :=
  ⟨hrun, fun m hm => h m hm.le⟩

/-- The states of a run after its first action are those of the run from there. -/
theorem RunsTo.cons (hs : ¬ RunEndsAt a s) (hact : act x s = .next u) (h : RunsTo a rest u n) :
    RunsTo a (x :: rest) s (n + 1) := by
  refine ⟨(stateAfter_cons_succ hact rest n).symm ▸ h.running, fun m hm => ?_⟩
  cases m with
  | zero => exact hs
  | succ m => exact (stateAfter_cons_succ hact rest m).symm ▸ h.before m (Nat.lt_of_succ_lt_succ hm)

/-- A run that is still running after its first action got a next state from it: any other answer halts it for good. -/
theorem exists_next_of_running (h : (stateAfter (x :: rest) s (n + 1)).halted = false) : ∃ u, act x s = .next u := by
  by_contra hstop
  have hsettle : settle s (act x s) = s.setHalted true :=
    haltedMachineStaysHalted.2 s x fun t ht => hstop ⟨t, ht⟩
  rw [stateAfter, List.take_succ_cons, runActions_cons, hsettle, runActions_halted rfl] at h
  cases h

theorem RunsTo.of_cons (h : RunsTo a (x :: rest) s (n + 1)) : ∃ u, act x s = .next u ∧ RunsTo a rest u n := by
  obtain ⟨u, hact⟩ := exists_next_of_running h.running
  exact ⟨u, hact, stateAfter_cons_succ hact rest n ▸ h.running,
    fun m hm => stateAfter_cons_succ hact rest m ▸ h.before (m + 1) (Nat.succ_lt_succ hm)⟩

/-- The end of a run is the end of what is left of it at any state it comes to. -/
theorem RunsTo.endOfRun_eq (h : RunsTo a actions s n) :
    endOfRun a actions s = endOfRun a (actions.drop n) (stateAfter actions s n) := by
  induction actions generalizing s n with
  | nil => simp only [stateAfter, List.take_nil, List.drop_nil, runActions_nil]
  | cons x rest ih =>
    cases n with
    | zero => rfl
    | succ n =>
      obtain ⟨u, hact, hu⟩ := h.of_cons
      have hs : ¬ RunEndsAt a s := h.before 0 n.succ_pos
      rw [endOfRun_cons hs, stateAfter_cons_succ hact, hact]
      exact ih hu

/-- The same with the next action named. -/
theorem RunsTo.endOfRun_eq_of_getElem? (h : RunsTo a actions s n) (hx : actions[n]? = some x) :
    endOfRun a actions s = endOfRun a (x :: actions.drop (n + 1)) (stateAfter actions s n) := by
  obtain ⟨hlt, rfl⟩ := List.getElem?_eq_some_iff.mp hx
  rw [h.endOfRun_eq, List.drop_eq_getElem_cons hlt]

end Runs

/-- The four ends of the run that the actions make from `s`, each with the state of the run it happens at. -/
inductive EndsAs (a : Addr12) (actions : List HostAction) (s : State) : RunEnd → Prop where
  | selfLoop {n : Nat} {t : State} (ht : t = stateAfter actions s n) (hn : n ≤ actions.length)
      (h : RunsTo a actions s n) (hend : RunEndsAt a t) : EndsAs a actions s (.selfLoop t)
  | fatal {n : Nat} {t : State} {x : HostAction} {f : Fault} (ht : t = stateAfter actions s n)
      (h : RunsTo a actions s n) (hend : ¬ RunEndsAt a t) (hx : actions[n]? = some x) (hact : act x t = .fault f) :
      EndsAs a actions s (.fatal t f)
  | refused {n : Nat} {t : State} {x : HostAction} {r : Refusal} (ht : t = stateAfter actions s n)
      (h : RunsTo a actions s n) (hend : ¬ RunEndsAt a t) (hx : actions[n]? = some x) (hact : act x t = .refused r) :
      EndsAs a actions s (.refused t r)
  | hostStopped {t : State} (ht : t = stateAfter actions s actions.length) (h : RunsTo a actions s actions.length)
      (hend : ¬ RunEndsAt a t) : EndsAs a actions s (.hostStopped t)

theorem EndsAs.cons {a : Addr12} {x : HostAction} {rest : List HostAction} {s u : State} {e : RunEnd}
    (hs : ¬ RunEndsAt a s) (hact : act x s = .next u) (h : EndsAs a rest u e) : EndsAs a (x :: rest) s e := by
  have hafter (n : Nat) := (stateAfter_cons_succ hact rest n).symm
  cases h with
  | selfLoop ht hn h hend => exact .selfLoop (ht.trans (hafter _)) (Nat.succ_le_succ hn) (h.cons hs hact) hend
  | fatal ht h hend hx hstop => exact .fatal (ht.trans (hafter _)) (h.cons hs hact) hend hx hstop
  | refused ht h hend hx hstop => exact .refused (ht.trans (hafter _)) (h.cons hs hact) hend hx hstop
  | hostStopped ht h hend => exact .hostStopped (ht.trans (hafter _)) (h.cons hs hact) hend

/-- Every run ends as its end says. -/
theorem endsAs_endOfRun (a : Addr12) (actions : List HostAction) {s : State} (hrun : s.halted = false) :
    EndsAs a actions s (endOfRun a actions s) := by
  induction actions generalizing s with
  | nil =>
    by_cases hs : RunEndsAt a s
    · exact endOfRun_here hs [] ▸ .selfLoop (n := 0) rfl (Nat.zero_le _) (.zero hrun) hs
    · exact endOfRun_nil hs ▸ .hostStopped rfl (.zero hrun) hs
  | cons x rest ih =>
    by_cases hs : RunEndsAt a s
    · exact endOfRun_here hs (x :: rest) ▸ .selfLoop (n := 0) rfl (Nat.zero_le _) (.zero hrun) hs
    · rw [endOfRun_cons hs]
      cases hact : act x s with
      | next u => exact (ih (act_next_running hact)).cons hs hact
      | fault f => exact .fatal (n := 0) rfl (.zero hrun) hs rfl hact
      | refused r => exact .refused (n := 0) rfl (.zero hrun) hs rfl hact

/-- A run has one end. -/
theorem EndsAs.endOfRun_eq {a : Addr12} {actions : List HostAction} {s : State} {e : RunEnd}
    (h : EndsAs a actions s e) : endOfRun a actions s = e := by
  cases h with
  | selfLoop ht _ h hend =>
    subst ht
    rw [h.endOfRun_eq, endOfRun_here hend]
  | fatal ht h hend hx hact =>
    subst ht
    rw [h.endOfRun_eq_of_getElem? hx, endOfRun_cons hend, hact]
  | refused ht h hend hx hact =>
    subst ht
    rw [h.endOfRun_eq_of_getElem? hx, endOfRun_cons hend, hact]
  | hostStopped ht h hend =>
    subst ht
    rw [h.endOfRun_eq, List.drop_length, endOfRun_nil hend]

theorem endOfRun_eq_iff {a : Addr12} {actions : List HostAction} {s : State} (hrun : s.halted = false) {e : RunEnd} :
    endOfRun a actions s = e ↔ EndsAs a actions s e :=
  ⟨fun h => h ▸ endsAs_endOfRun a actions hrun, EndsAs.endOfRun_eq⟩

/-! ## The statements -/

/-- Settles O10: a step that stops is halted, unmatched or runs an instruction that stops; `sys` has no entry. -/
theorem fatalConditionsAreExactlyThese : Obligations.FatalConditionsAreExactlyThese := by
  intro s f hdepth
  constructor
  · intro h
    obtain ⟨hhalted, hf⟩ | ⟨hrun, hnone, hf⟩ | ⟨hrun, i, hd, hdecode, hword, hstops⟩ := step_stop_cases h nofun
    · exact .inl ⟨hhalted, Host.Outcome.fault.inj hf⟩
    · exact .inr (.inl ⟨hrun, hnone, Host.Outcome.fault.inj hf⟩)
    · cases hstops with
      | sys nnn => exact absurd hd (dispatch_ne_sys _ nnn)
      | call nnn hfull => exact .inr (.inr (.inl ⟨hrun, ⟨nnn, hdecode⟩, hdepth.antisymm hfull, congrArg _ hword⟩))
      | ret hnil => exact .inr (.inr (.inr ⟨hrun, hdecode, hnil, congrArg _ hword⟩))
  · rintro (⟨hhalted, rfl⟩ | ⟨hrun, hnone, rfl⟩ | ⟨hrun, ⟨nnn, hd⟩, hfull, rfl⟩ | ⟨hrun, hd, hnil, rfl⟩)
    · exact act_halted hhalted .step
    · exact step_of_no_row hrun hnone
    · exact (encode_of_decode hd).1 ▸ step_of_stops hrun hd (.call nnn hfull.ge)
    · exact (encode_of_decode hd).1 ▸ step_of_stops hrun hd (.ret hnil)

/-- Settles O11: three of the instructions that stop do so by a refusal. -/
theorem refusalsAreExactlyThese : Obligations.RefusalsAreExactlyThese := by
  intro s r
  constructor
  · intro h
    obtain ⟨-, hr⟩ | ⟨-, -, hr⟩ | ⟨hrun, i, -, hdecode, hword, hstops⟩ := step_stop_cases h nofun
    · cases hr
    · cases hr
    · refine ⟨hrun, ?_⟩
      cases hstops with
      | ldF hx => exact .inl ⟨_, hdecode, hx, congrArg _ hword⟩
      | skp hx => exact .inr ⟨_, .inl hdecode, hx, congrArg _ hword⟩
      | sknp hx => exact .inr ⟨_, .inr hdecode, hx, congrArg _ hword⟩
  · rintro ⟨hrun, ⟨x, hd, hx, rfl⟩ | ⟨x, hd | hd, hx, rfl⟩⟩
    · exact (encode_of_decode hd).1 ▸ step_of_stops hrun hd (.ldF hx)
    · exact (encode_of_decode hd).1 ▸ step_of_stops hrun hd (.skp hx)
    · exact (encode_of_decode hd).1 ▸ step_of_stops hrun hd (.sknp hx)

/-- Settles O20: it holds after initialisation, and every action keeps it. -/
theorem everyReachableStateMeetsTheInvariant : Obligations.EveryReachableStateMeetsTheInvariant := by
  rintro t ⟨image, actions, rfl⟩
  exact runActions_keeps everyActionKeepsTheInvariant actions (initialise_inv image)

/-- Settles O32: element k of rows of 64 end to end is element k mod 64 of row k / 64. -/
theorem displayViewIsRowMajor : Obligations.DisplayViewIsRowMajor := by
  intro s
  rw [displayView_eq_flatten]
  refine ⟨Vector.length_toList, fun r c => ?_⟩
  have hrow : (r.val * 64 + c.val) / 64 = r.val := by omega
  have hcol : (r.val * 64 + c.val) % 64 = c.val := by omega
  rw [Vector.getElem?_toList, Vector.getElem?_eq_getElem (by omega), Vector.getElem_flatten]
  simp only [hrow, hcol, Framebuffer.pixel, Fin.getElem_fin]

/-- Settles O37: the step changes the event alone, so PC and the word there are as before. -/
theorem endOfARunIsASelfLoop : Obligations.EndOfARunIsASelfLoop :=
  fun s _ hrun h => ⟨_, step_of_runEndsAt hrun h, h, changesOnly_setEvent s .none⟩

/-- Settles O58: each clause is one of the four ends, and a run has exactly one. -/
theorem endOfARunIsTheFirstSelfLoop : Obligations.EndOfARunIsTheFirstSelfLoop := by
  intro a actions s t hrun
  refine ⟨(endOfRun_eq_iff hrun).trans ⟨?_, ?_⟩, fun f => (endOfRun_eq_iff hrun).trans ⟨?_, ?_⟩,
    fun r => (endOfRun_eq_iff hrun).trans ⟨?_, ?_⟩, (endOfRun_eq_iff hrun).trans ⟨?_, ?_⟩⟩
  · exact fun | .selfLoop rfl hn h hend => ⟨_, hn, rfl, h.running, hend, h.before⟩
  · rintro ⟨n, hn, rfl, hrunning, hend, hbefore⟩
    exact .selfLoop rfl hn ⟨hrunning, hbefore⟩ hend
  · exact fun | .fatal rfl h hend hx hact => ⟨_, _, hx, rfl, h.running, hact, h.not_runEndsAt hend⟩
  · rintro ⟨n, x, hx, rfl, hrunning, hact, hnone⟩
    exact .fatal rfl (runsTo_of_not_runEndsAt hrunning hnone) (hnone n le_rfl) hx hact
  · exact fun | .refused rfl h hend hx hact => ⟨_, _, hx, rfl, h.running, hact, h.not_runEndsAt hend⟩
  · rintro ⟨n, x, hx, rfl, hrunning, hact, hnone⟩
    exact .refused rfl (runsTo_of_not_runEndsAt hrunning hnone) (hnone n le_rfl) hx hact
  · exact fun | .hostStopped rfl h hend => ⟨rfl, h.running, h.not_runEndsAt hend⟩
  · rintro ⟨rfl, hrunning, hnone⟩
    exact .hostStopped rfl (runsTo_of_not_runEndsAt hrunning hnone) (hnone _ le_rfl)

/-- Settles O51: a countdown is subtraction that stops at 0, and tick is one of each timer. -/
theorem tickCountsBothTimersDown : Obligations.TickCountsBothTimersDown :=
  fun s hrun => ⟨s.tick, whenRunning_of_running hrun State.tick, countDown_toNat s.dt, countDown_toNat s.st,
    (changesOnly_setDt s _).trans (changesOnly_setSt _ _)⟩

/-- Settles O52: a refresh is one write of the keypad, on exactly at the keys named. -/
theorem refreshReplacesTheKeypad : Obligations.RefreshReplacesTheKeypad :=
  fun s down hrun => ⟨s.refresh down, whenRunning_of_running hrun fun t => t.refresh down,
    fun k => by rw [pressed_refresh, decide_eq_true_iff], changesOnly_setKeys s _⟩

end Sys2Proof.Machine

/-! # Family 70_reset_and_hazards: initialisation with a program image

What the initial contents of memory are on both sides of the font, and what loading an image leaves at each address; then
the statements (70_reset_and_hazards.md). -/

namespace Sys2Proof.Machine

/-! ## The font in the initial contents (R302, R303) -/

theorem fontBase_eq : fontBase = 0x000 ∨ fontBase = 0x050 := by
  unfold fontBase
  split
  · exact .inl rfl
  · exact .inr rfl

theorem fontGlyphs_length : fontGlyphs.length = 80 := Vector.length_toList

theorem initialByteOf_outside {base a : Nat} {glyphs : List Byte} (h : a < base ∨ base + glyphs.length ≤ a) :
    initialByteOf base glyphs a = 0 := by
  unfold initialByteOf
  split
  · rfl
  · exact List.getD_eq_default _ _ (by omega)

/-- The font ends below 0x0A0 for either FONT_BASE, so the bound in `initialByte` cuts nothing off. -/
theorem initialByte_eq_initialByteOf (a : Nat) : initialByte a = initialByteOf fontBase.toNat fontGlyphs a := by
  unfold initialByte
  split
  · rfl
  · have hbase := fontBase_toNat_le
    have hlen := fontGlyphs_length
    exact (initialByteOf_outside (by omega)).symm

theorem readByte_reset_outside_font {a : Nat} (ha : a < 4096) (h : a < fontBase.toNat ∨ fontBase.toNat + 80 ≤ a) :
    readByte State.reset.mem a = 0 := by
  rw [readByte_reset ha, initialByte_eq_initialByteOf, initialByteOf_outside (fontGlyphs_length ▸ h)]

/-! ## Memory after loading an image (R303) -/

theorem initialise_mem (image : List Byte) :
    (initialise image).mem = writeBytes State.reset.mem 0x200 (image.take 3584) := rfl

/-- Reset lists no cell. -/
theorem reset_mem_wf : State.reset.mem.wf := Memory.wf_nil

/-- The part of the image that fits is at most 3584 bytes long, so no byte of it is stored over another. -/
theorem readByte_initialise_image (image : List Byte) {j : Nat} (h : j < min image.length 3584) :
    readByte (initialise image).mem (0x200 + j) = image.getD j 0 := by
  have hlen : (image.take 3584).length = min 3584 image.length := List.length_take
  rw [initialise_mem, readByte_writeBytes_inside reset_mem_wf _ _ (by omega) j (by omega), List.getElem_take,
    List.getElem_eq_getD 0]

/-- The truncated image ends at the end of memory, so it does not wrap to the addresses below 0x200. -/
theorem readByte_initialise_outside (image : List Byte) {a : Nat} (ha : a < 4096)
    (h : a < 0x200 ∨ 0x200 + image.length ≤ a) : readByte (initialise image).mem a = readByte State.reset.mem a := by
  have hlen : (image.take 3584).length = min 3584 image.length := List.length_take
  rw [initialise_mem]
  exact readByte_writeBytes_outside reset_mem_wf _ _ _ fun k hk => by omega

/-! ## The statements -/

/-- Settles O23: the image changes its own addresses alone, and behind them the font has ended. -/
theorem imageIsLoadedVerbatimAndTruncated : Obligations.ImageIsLoadedVerbatimAndTruncated := by
  refine fun image => ⟨fun j hj => readByte_initialise_image image hj,
    fun a ha => readByte_initialise_outside image (by omega) (.inl ha), fun a ha hend => ?_⟩
  have hbase := fontBase_toNat_le
  rw [readByte_initialise_outside image ha (.inr hend), readByte_reset_outside_font ha (by omega)]

/-- Settles O19: the memory of reset is canonical, loading an image keeps that, and neither puts an entry on the stack. -/
theorem initialisationMeetsTheInvariant : Obligations.InitialisationMeetsTheInvariant :=
  ⟨⟨reset_mem_wf, Nat.zero_le _⟩, initialise_inv⟩

/-- Settles O22: loading an image writes memory alone, so all of them are the values of reset. -/
theorem restOfTheInitialState : Obligations.RestOfTheInitialState := by
  refine fun image => ⟨rfl, rfl, rfl, rfl, fun r c => ?_, fun k => ?_, rfl⟩
  · calc (initialise image).fb.pixel r c = Framebuffer.clear.pixel r c := rfl
      _ = false := Framebuffer.pixel_clear r c
  · calc (initialise image).pressed k = State.reset.pressed k := rfl
      _ = false := by simp [State.pressed, State.reset]

/-- Settles O24: every address reads as its initial byte; the default table is compared row by row for both bases. -/
theorem fontAfterInitialisation : Obligations.FontAfterInitialisation := by
  have hbase := fontBase_toNat_le
  refine ⟨fontBase_eq, fun k hk => ?_, fun a ha => readByte_reset_outside_font (by omega), fun a ha => ?_,
    fontGlyphs_length, rfl, by decide⟩
  · rw [readByte_reset (by omega), initialByte_fontBase_add hk]
  · rw [readByte_reset ha, initialByte_eq_initialByteOf]

end Sys2Proof.Machine
